-- ==== Sys2Proof/Word.lean ====
section
/-! DEFINITION. The words of the block (bytes, the 16-bit frame parameter, the 32-bit command word, the 48-bit frame
word), the frame as its six named bytes (R90), and the small sets of names the encodings use. -/

namespace Sys2Proof

abbrev Byte := BitVec 8

/-- A 16-bit frame parameter (R9). -/
abbrev Half := BitVec 16

/-- A CMD32 command word (R100). -/
abbrev CmdWord := BitVec 32

/-- A FRAME48 word, F[0] in bits [47:40] down to F[5] in bits [7:0] (R47, R90). -/
abbrev FrameWord := BitVec 48

/-- The six bytes of a frame, F[0] to F[5], under the names of R90. -/
structure Frame where
  header1   : Byte
  header2   : Byte
  register  : Byte
  paramHigh : Byte
  paramLow  : Byte
  checksum  : Byte
  deriving DecidableEq, Repr

/-- A word in one of the two encodings of spec/opcode_table.json. -/
inductive InstrWord where
  | cmd32   (w : CmdWord)
  | frame48 (w : FrameWord)
  deriving DecidableEq, Repr

/-- The seven registers of the SCR HAT that a frame can name (R93). -/
inductive Register where
  | mode | channelEnable | angle1 | angle2 | frequency | reset | baudrate
  deriving DecidableEq, Repr

/-- A channel number (R15): 1 or 2. -/
inductive Channel where
  | one | two
  deriving DecidableEq, Repr

/-- `Mode` of R15: PhaseAngle = 0, Switch = 1. -/
inductive Mode where
  | phaseAngle | switch
  deriving DecidableEq, Repr

/-- `LogicalLevel` of R15: Active = 1, Inactive = 0. -/
inductive Level where
  | inactive | active
  deriving DecidableEq, Repr

/-- A physical level (R15, R201): 0 is LOW, 1 is HIGH. -/
inductive Phys where
  | low | high
  deriving DecidableEq, Repr

/-- The answer of a SinkWrite or a GpioSet (R14). -/
inductive IoAnswer where
  | ok | ioErr
  deriving DecidableEq, Repr

/-- The answer of a GpioAcquire (R14). -/
inductive AcqAnswer where
  | ok | acqErr
  deriving DecidableEq, Repr

end Sys2Proof
end

