-- ==== Sys2Proof/Config.lean ====
section
/-! DEFINITION. The construction parameters of R8 and the free values the spec leaves to the external agents (R14, I15). -/

namespace Sys2Proof

/-- `CKSUM` (R8, R132): the one checksum policy the block is built with. -/
inductive Cksum where
  | xor | sum
  deriving DecidableEq, Repr, Inhabited

/-- `CHIP_ID` is an opaque id (R8); only equality of ids means anything (log 10, DESIGN CHOICE). -/
structure ChipId where
  id : Nat
  deriving DecidableEq, Repr, Inhabited

/-- The parameters of R8, "fixed at construction (reset)" and never changed while the block runs. `baudTable` is
BAUD_TABLE as data: the pairs (bps, code), the first pair of a bps counting; a bps it does not list is `None`
(log 9). -/
structure Config where
  cksum         : Cksum
  baudTable     : List (Nat × Half)
  settleMs      : Nat
  lineActiveLow : Bool
  devAlInit     : Bool
  chipId        : ChipId
  lineOffset    : Nat
  deriving DecidableEq, Repr, Inhabited

/-- The parameters the block was constructed with: OPEN (R8, I1 to I6), so a constant without a body. -/
opaque Config.construction : Config

/-- The byte sink's answer when it is asked for the n-th time, `none` while it has not answered (R14, R281, I15, I20):
free. -/
opaque Config.sinkAnswer : Nat → Option IoAnswer

/-- The capability's answer to an acquire (R14, R281, I15, I20): free. -/
opaque Config.acquireAnswer : Nat → Option AcqAnswer

/-- The capability's answer to a set (R14, R281, I15, I20): free. -/
opaque Config.setAnswer : Nat → Option IoAnswer

/-- How many steps of its own the settle timer takes before it expires (R7, R45): free, and finite, as weak fairness
guarantees (R281; log 4). -/
opaque Config.settleSteps : Nat → Nat

end Sys2Proof
end

