-- ==== Sys2Proof/Machine/Frame.lean ====
section
/-! DEFINITION. The Frame Codec (41_frame_codec.md) as pure functions: register ids, the two checksum policies,
`encode`, and a frame as bytes and as a 48-bit word. -/

namespace Sys2Proof

/-- The register id, frame byte 2 (R93). -/
def Register.id : Register → Byte
  | .mode          => 0x01
  | .channelEnable => 0x02
  | .angle1        => 0x03
  | .angle2        => 0x04
  | .frequency     => 0x05
  | .reset         => 0x06
  | .baudrate      => 0x07

/-- The register an id names; 0x00 and 0x08 to 0xFF name none (R97). -/
def Register.ofId (b : Byte) : Option Register :=
  if b = 0x01 then some .mode
  else if b = 0x02 then some .channelEnable
  else if b = 0x03 then some .angle1
  else if b = 0x04 then some .angle2
  else if b = 0x05 then some .frequency
  else if b = 0x06 then some .reset
  else if b = 0x07 then some .baudrate
  else none

/-- The parameter class of R93: Reset and Baudrate take 16 bits, the others one byte. -/
def Register.wide : Register → Bool
  | .mode | .channelEnable | .angle1 | .angle2 | .frequency => false
  | .reset | .baudrate => true

/-- The constant header bytes F[0] and F[1] (R91). -/
def frameHeader1 : Byte := 0x57
def frameHeader2 : Byte := 0x68

/-- `checksum_CKSUM` (R132): the XOR-fold, or the sum of the five bytes as unsigned integers kept modulo 256. -/
def frameChecksum (p : Cksum) (b0 b1 b2 b3 b4 : Byte) : Byte :=
  match p with
  | .xor => b0 ^^^ b1 ^^^ b2 ^^^ b3 ^^^ b4
  | .sum => BitVec.ofNat 8 ((b0.toNat + b1.toNat + b2.toNat + b3.toNat + b4.toNat) % 256)

/-- F[3] of R130: `param >> 8` of a 16-bit register, 0x00 of a single-byte one. -/
def paramHighByte (r : Register) (param : Half) : Byte :=
  if r.wide then param.extractLsb' 8 8 else 0x00

/-- `encode` on valid inputs (R130). -/
def encodeFrame (p : Cksum) (r : Register) (param : Half) : Frame :=
  { header1   := frameHeader1
    header2   := frameHeader2
    register  := r.id
    paramHigh := paramHighByte r param
    paramLow  := param.extractLsb' 0 8
    checksum  := frameChecksum p frameHeader1 frameHeader2 r.id (paramHighByte r param) (param.extractLsb' 0 8) }

/-- The inputs on which `encode` is defined (R131): a register id of R93, and a parameter of at most 0xFF for a
single-byte register. -/
def codecValid (reg : Byte) (param : Half) : Bool :=
  match Register.ofId reg with
  | none   => false
  | some r => r.wide || decide (param ≤ 0x00FF)

/-- The codec on any input (R131): no frame where the input is not valid. -/
def codecEncode (p : Cksum) (reg : Byte) (param : Half) : Option Frame :=
  match Register.ofId reg with
  | none   => none
  | some r => if codecValid reg param then some (encodeFrame p r param) else none

/-- The frame as the byte sequence F[0] to F[5], the order in which it is sent (R72). -/
def Frame.toBytes (f : Frame) : List Byte :=
  [f.header1, f.header2, f.register, f.paramHigh, f.paramLow, f.checksum]

/-- A byte sequence read as a frame: exactly six bytes (R99). -/
def Frame.ofBytes : List Byte → Option Frame
  | [b0, b1, b2, b3, b4, b5] => some ⟨b0, b1, b2, b3, b4, b5⟩
  | _ => none

/-- `{F[0], F[1], F[2], F[3], F[4], F[5]}`, F[0] highest (R47, R74). -/
def Frame.toBits (f : Frame) : FrameWord :=
  f.header1 ++ f.header2 ++ f.register ++ f.paramHigh ++ f.paramLow ++ f.checksum

/-- The six bytes of a FRAME48 word (R90). -/
def Frame.ofBits (w : FrameWord) : Frame :=
  { header1   := w.extractLsb' 40 8
    header2   := w.extractLsb' 32 8
    register  := w.extractLsb' 24 8
    paramHigh := w.extractLsb' 16 8
    paramLow  := w.extractLsb' 8 8
    checksum  := w.extractLsb' 0 8 }

/-- R98: a well-formed frame under a policy. -/
def Frame.wellFormed (p : Cksum) (f : Frame) : Bool :=
  decide (f.header1 = 0x57) && decide (f.header2 = 0x68) &&
  (match Register.ofId f.register with
   | none   => false
   | some r => r.wide || decide (f.paramHigh = 0x00)) &&
  decide (f.checksum = frameChecksum p f.header1 f.header2 f.register f.paramHigh f.paramLow)

end Sys2Proof
end

