-- ==== Sys2Proof/Machine/Operands.lean ====
section
/-! DEFINITION. The operand forms of the commands (42_device_session.md, 43_output_line.md): channel, mode, angle,
frequency, delay, bps and level fields, and the level maps of the output line. -/

namespace Sys2Proof.Machine

open Sys2Proof

/-- A "reserved 0" field that is not zero (R104). -/
def reservedSet (v : BitVec n) : Bool := decide (v ≠ 0)

/-- "ch not in {1, 2}" is `none` (R163). -/
def channelOf (ch : BitVec 4) : Option Channel :=
  if ch = 1 then some .one else if ch = 2 then some .two else none

def channelNumber : Channel → Nat
  | .one => 1
  | .two => 2

/-- `1 << (ch - 1)` as a u8 (R163, R166). -/
def channelBit (c : Channel) : BitVec 8 := 1#8 <<< (channelNumber c - 1)

/-- The new mask of ENCH: `mask | (1 << (ch - 1))` (R163). -/
def maskEnabling (mask : BitVec 8) (c : Channel) : BitVec 8 := mask ||| channelBit c

/-- The new mask of DISCH: `mask & ~(1 << (ch - 1))`, ~ at 8 bits (R166). -/
def maskDisabling (mask : BitVec 8) (c : Channel) : BitVec 8 := mask &&& ~~~(channelBit c)

/-- `(ch == 1) ? 0x03 : 0x04` (R169, R171). -/
def angleRegister : Channel → Register
  | .one => .angle1
  | .two => .angle2

/-- `zext_16(mask)` (R163). -/
def maskParam (mask : BitVec 8) : Half := mask.setWidth 16

/-- `zext_16(data[0])` (R161). -/
def bitParam (data : BitVec 24) : Half := (data.extractLsb' 0 1).setWidth 16

/-- `zext_16(data[7:0])` (R169, R172). -/
def byteParam (data : BitVec 24) : Half := (data.extractLsb' 0 8).setWidth 16

/-- `data[15:0]` (R175). -/
def halfParam (data : BitVec 24) : Half := data.extractLsb' 0 16

/-- `(data == 0) ? PhaseAngle : Switch` (R161). -/
def modeOf (data : BitVec 24) : Mode := if data = 0 then .phaseAngle else .switch

/-- `(data == 1) ? Active : Inactive` (R202). -/
def levelOf (data : BitVec 24) : Level := if data = 1 then .active else .inactive

/-- `BAUD_TABLE(bps)` (R8, R178). -/
def baudCode (c : Config) (bps : Nat) : Option Half := c.baudTable.lookup bps

/-- A physical level bit (R15, R201). -/
def physOfBit (b : Bool) : Phys := if b then .high else .low

/-- `data[0] ^ S.pol.line_al` (R202, R203). -/
def initialPhys (data : BitVec 24) (lineAl : Bool) : Phys := physOfBit (data.getLsbD 0 ^^ lineAl)

/-- The level LON drives: `dev_al ? 0 : 1` (R205, R206). -/
def onPhys (devAl : Bool) : Phys := if devAl then .low else .high

/-- The level LOFF drives: `dev_al ? 1 : 0` (R206, R207). -/
def offPhys (devAl : Bool) : Phys := if devAl then .high else .low

end Sys2Proof.Machine
end

