-- ==== Sys2Proof/Machine/State.lean ====
section
/-! DEFINITION. The block's state (10_state.md), the events of its trace (R44), the status codes' names (R230), the
host's actions and the external agents' answers as plain data, and the state after reset (R260). -/

namespace Sys2Proof.Machine

open Sys2Proof

/-- The response statuses of R230. -/
inductive Status where
  | ok | ioError | acqError | notInit | invalidParam | illegalCmd
  deriving DecidableEq, Repr

/-- The events of R44. -/
inductive Event where
  /-- `FRAME(F, r)`: a SinkWrite of F answered r. -/
  | frame (f : Frame) (r : IoAnswer)
  /-- `GACQ(chip, offset, lvl, r)`: a GpioAcquire answered r. -/
  | gacq (chip : ChipId) (offset : Nat) (lvl : Phys) (r : AcqAnswer)
  /-- `GSET(lvl, r)`: a GpioSet answered r. -/
  | gset (lvl : Phys) (r : IoAnswer)
  /-- `GREL`: a GpioRelease. -/
  | grel
  /-- `SETTLE(ms)`: a completed settle wait. -/
  | settle (ms : Nat)
  deriving DecidableEq, Repr

/-- The line's lifecycle (R36, R200): "`Uninitialized → Initialized(level) → Released`". The level of R37 exists only
in INIT, where alone it may be read (log 7). -/
inductive Line where
  | uninit
  | init (level : Level)
  | released
  deriving DecidableEq, Repr

/-- What a command in flight waits on: an external request (R14, R281) or the settle timer (R7, R45). A GPIO request carries
the logical level its command records when the answer is Ok (R202, R205, R207). -/
inductive Request where
  | sinkWrite   (f : Frame)
  | gpioAcquire (level : Level) (lvl : Phys)
  | gpioSet     (level : Level) (lvl : Phys)
  /-- The settle wait after a write answered Ok: the timer runs, and expires after the next step and `left` more (log 4). -/
  | settle      (left : Nat)
  deriving DecidableEq, Repr

/-- What the host does to the block, in the order it does it (R7, R46, R47, R51; log 2). -/
inductive HostAction where
  /-- A command word on the command port, or a FRAME48 word for the codec port to encode. -/
  | word (w : InstrWord)
  /-- The codec-port inputs ENC_REG and ENC_PARAM (R47). -/
  | codec (reg : Byte) (param : Half)
  /-- `RST` (R51). -/
  | rst
  deriving DecidableEq, Repr

/-- The external agents (R7, R14; log 3): for each, what it says each time it is asked, `none` standing for "no answer
yet"; and for the settle timer, how many steps of its own each wait takes (log 4). Past the end of a list the answer is the
free one of Config at `polls`. -/
structure Env where
  sink    : List (Option IoAnswer)
  acquire : List (Option AcqAnswer)
  set     : List (Option IoAnswer)
  timer   : List Nat
  polls   : Nat
  deriving DecidableEq, Repr

/-- Why the machine stops with a fault. -/
inductive Fault where
  /-- Raised by `step` (through `fetch`) when a 48-bit word presented for encoding is no FRAME48 word: it is "not a frame
  of this protocol" (R97), and "A model refuses such an input and gives it no frame" (R131). Safe: the model stops where
  the spec gives no frame (log 15). -/
  | notAFrame
  deriving DecidableEq, Repr

/-- Why the machine has no meaning for an instruction. -/
inductive Refusal where
  /-- Raised by an arm of `exec` whose instruction has no meaning yet; no arm raises it now. Safe: the model stops. -/
  | notModelled (mnemonic : String)
  deriving DecidableEq, Repr

/-- The whole state (R33 to R53). `S.busy` is "`inflight` holds a request" (log 6), `S.pol.line_al` is
`cfg.lineActiveLow` (R39, R43; log 8). -/
structure State where
  /-- `C.*` (R8, R43). -/
  cfg       : Config
  /-- `S.ds.mask` (R33). -/
  mask      : BitVec 8
  /-- `S.ds.last_mode` (R34). -/
  lastMode  : Option Mode
  /-- `S.pol.lstate` with `S.pol.level` (R36, R37). -/
  line      : Line
  /-- `S.pol.dev_al` (R38). -/
  devAl     : Bool
  /-- `S.pol.last_phys` (R40). -/
  lastPhys  : Option Phys
  /-- What the command in flight waits on (R46, R281), the running settle timer included (R45); `S.busy`. -/
  inflight  : Option Request
  /-- `S.rsp` (R43, R53). -/
  rsp       : Option Status
  /-- The responses given since construction, oldest first (R18, R46; log 14). -/
  responses : List Status
  /-- `S.trace` (R44), oldest first. -/
  trace     : List Event
  /-- The traces of the instances an `RST` destroyed (R51, R261; log 11). -/
  retired   : List (List Event)
  /-- `ENC_REG` (R47). -/
  encReg    : Byte
  /-- `ENC_PARAM` (R47). -/
  encParam  : Half
  /-- The host's actions to come (log 2). -/
  inbox     : List HostAction
  /-- The external agents (log 3). -/
  env       : Env
  deriving DecidableEq, Repr

/-- `S.busy` (R43, R46). -/
def State.busy (s : State) : Bool := s.inflight.isSome

/-- The block right after construction with the parameters `c` (R260). The fields below `trace` are the model's or the
host's own and start empty or at zero (log 2, 3, 11, 13). -/
def State.construct (c : Config) : State :=
  { cfg := c
    mask := 0x00
    lastMode := none
    line := .uninit
    devAl := c.devAlInit
    lastPhys := none
    inflight := none
    rsp := none
    responses := []
    trace := []
    retired := []
    encReg := 0x00
    encParam := 0x0000
    inbox := []
    env := { sink := [], acquire := [], set := [], timer := [], polls := 0 } }

/-- The machine right after reset: constructed with the open parameters of R8. -/
def State.reset : State := State.construct Config.construction

end Sys2Proof.Machine
end

