-- ==== Sys2Proof/Machine/Ops.lean ====
section
/-! DEFINITION. The shared operations: logging (R44), ending a command with a status (R14, R46), the requests to the
external agents and their answers (R14, R48, R49, R281), `issue` (R160), the release (R211), the codec port's inputs
(R47) and `RST` (R261). The block has no memory, so there is none over memory (R70). -/

namespace Sys2Proof.Machine

open Sys2Proof

/-- `S.pol.line_al`: "hardwired to config" (R39, R43). -/
def State.lineAl (s : State) : Bool := s.cfg.lineActiveLow

/-- `log(ev)` (R14, R44). -/
def State.log (s : State) (ev : Event) : State := { s with trace := s.trace ++ [ev] }

/-- A command ends: `S.rsp` takes its status, the response is presented, and `S.busy` becomes 0 (R46, R230). -/
def State.finish (s : State) (st : Status) : State :=
  { s with rsp := some st, responses := s.responses ++ [st], inflight := none }

/-- `raise E` (R14, R240): the one way an error is taken. Writes and events made before it persist; no state is saved, no
mode or vector exists, and nothing returns from it. -/
def State.raise (s : State) (st : Status) : State := s.finish st

/-- `return OK` (R14). -/
def State.returnOk (s : State) : State := s.finish .ok

/-- What the byte sink says when it is asked once more, and the agents afterwards (R14, R281; log 3). -/
def Env.pollSink (e : Env) : Option IoAnswer × Env :=
  match e.sink with
  | a :: rest => (a, { e with sink := rest })
  | []        => (Config.sinkAnswer e.polls, { e with polls := e.polls + 1 })

/-- The capability asked for the answer to an acquire. -/
def Env.pollAcquire (e : Env) : Option AcqAnswer × Env :=
  match e.acquire with
  | a :: rest => (a, { e with acquire := rest })
  | []        => (Config.acquireAnswer e.polls, { e with polls := e.polls + 1 })

/-- The capability asked for the answer to a set. -/
def Env.pollSet (e : Env) : Option IoAnswer × Env :=
  match e.set with
  | a :: rest => (a, { e with set := rest })
  | []        => (Config.setAnswer e.polls, { e with polls := e.polls + 1 })

/-- The steps of its own the settle timer takes for the wait that begins now (R7, R45; log 4). -/
def Env.pollTimer (e : Env) : Nat × Env :=
  match e.timer with
  | n :: rest => (n, { e with timer := rest })
  | []        => (Config.settleSteps e.polls, { e with polls := e.polls + 1 })

/-- `Settle(SETTLE_MS); log(SETTLE(SETTLE_MS)); return OK` of R160, the timer having that many steps of its own to go: with
none it has expired, else the command waits with `S.busy` = 1 (R7, R45). -/
def State.settleWait (s : State) : Nat → State
  | 0        => (s.log (.settle s.cfg.settleMs)).returnOk
  | left + 1 => { s with inflight := some (.settle left) }

/-- The rest of `issue` once the sink has answered (R160, R181): IoErr ends the command with no settle wait, Ok starts the
settle timer. -/
def State.afterWrite (s : State) (f : Frame) : IoAnswer → State
  | .ioErr => (s.log (.frame f .ioErr)).raise .ioError
  | .ok    => { s.log (.frame f .ok) with env := s.env.pollTimer.2 }.settleWait s.env.pollTimer.1

/-- The rest of LINIT once the capability has answered (R202): the state is written only on Ok. -/
def State.afterAcquire (s : State) (level : Level) (lvl : Phys) : AcqAnswer → State
  | .acqErr => (s.log (.gacq s.cfg.chipId s.cfg.lineOffset lvl .acqErr)).raise .acqError
  | .ok     => { s.log (.gacq s.cfg.chipId s.cfg.lineOffset lvl .ok) with
                 line := .init level, lastPhys := some lvl }.returnOk

/-- The rest of LON and LOFF once the capability has answered (R205, R207): the state is written only on Ok. -/
def State.afterSet (s : State) (level : Level) (lvl : Phys) : IoAnswer → State
  | .ioErr => (s.log (.gset lvl .ioErr)).raise .ioError
  | .ok    => { s.log (.gset lvl .ok) with line := .init level, lastPhys := some lvl }.returnOk

/-- The agent that the command in flight waits on takes its step. With an answer the command goes on; without one it stays
in flight with `S.busy` = 1 (R281); the settle timer expires or comes one step nearer to it (R7, R45). With no command in
flight nothing happens. -/
def State.poll (s : State) : State :=
  match s.inflight with
  | none => s
  | some (.sinkWrite f) =>
    match s.env.pollSink with
    | (none, e)   => { s with env := e }
    | (some r, e) => { s with env := e }.afterWrite f r
  | some (.gpioAcquire level lvl) =>
    match s.env.pollAcquire with
    | (none, e)   => { s with env := e }
    | (some r, e) => { s with env := e }.afterAcquire level lvl r
  | some (.gpioSet level lvl) =>
    match s.env.pollSet with
    | (none, e)   => { s with env := e }
    | (some r, e) => { s with env := e }.afterSet level lvl r
  | some (.settle left) => s.settleWait left

/-- A request to an external agent: exactly one, never repeated (R78, R182). -/
def State.request (s : State) (q : Request) : State := { s with inflight := some q }.poll

/-- `issue(reg, param)` (R160). -/
def State.issue (s : State) (r : Register) (param : Half) : State :=
  s.request (.sinkWrite (encodeFrame s.cfg.cksum r param))

/-- `S.ds.last_mode <- m` (R161). -/
def State.setLastMode (s : State) (m : Mode) : State := { s with lastMode := some m }

/-- `S.ds.mask <- v` (R163, R166). -/
def State.setMask (s : State) (v : BitVec 8) : State := { s with mask := v }

/-- `S.pol.dev_al <- b` (R209). -/
def State.setDevAl (s : State) (b : Bool) : State := { s with devAl := b }

/-- The release of R211: from INIT one `GpioRelease()` with its GREL, then RELEASED. -/
def State.releaseLine (s : State) : State :=
  match s.line with
  | .init _   => { s.log .grel with line := .released }
  | .uninit   => { s with line := .released }
  | .released => s

/-- The codec port's inputs take `ENC_REG` and `ENC_PARAM` (R47). -/
def State.drivePort (s : State) (reg : Byte) (param : Half) : State :=
  { s with encReg := reg, encParam := param }

/-- `ENC_OK` (R47, R131): a function of the inputs alone. -/
def State.encOk (s : State) : Bool := codecValid s.encReg s.encParam

/-- `ENC_FRAME` (R47, R131): no frame while ENC_OK = 0 (log 16). -/
def State.encFrame (s : State) : Option FrameWord :=
  (codecEncode s.cfg.cksum s.encReg s.encParam).map Frame.toBits

/-- The line handle (R36, R45) is held exactly in INIT. -/
def Line.held : Line → Bool
  | .init _ => true
  | .uninit => false
  | .released => false

/-- `RST` (R51, R260, R261): the old instance's trace is closed, with the GREL of its release if the line was INIT, and a
new instance is constructed with the same parameters. What is not the block's (the host's actions to come, the port
inputs, the agents) is untouched (log 11). -/
def State.rst (s : State) : State :=
  { State.construct s.cfg with
    retired  := s.retired ++ [if s.line.held then s.trace ++ [.grel] else s.trace]
    encReg   := s.encReg
    encParam := s.encParam
    inbox    := s.inbox
    env      := s.env }

/-- What the sink may have taken over of an event's bytes by its answer: "An answer Ok means all 6 bytes were transferred"
(R76); after IoErr any leading part, from no byte to all six (R77, I7; log 20). Other events carry no bytes. Nothing is said
here of the line or the device (R85; log 25). -/
def Event.mayDeliver : Event → List Byte → Prop
  | .frame f .ok, bs    => bs = f.toBytes
  | .frame f .ioErr, bs => ∃ k, k ≤ 6 ∧ bs = f.toBytes.take k
  | .gacq _ _ _ _, bs   => bs = []
  | .gset _ _, bs       => bs = []
  | .grel, bs           => bs = []
  | .settle _, bs       => bs = []

/-- What may have come out of the sink towards the device, at any time after the answer. Whether Ok means that the bytes have
left the line "or only entered a buffer is not in the source" (R85), and a frame sent at the old rate must not be assumed
received (R270), so after either answer any leading part is admitted, from no byte to all six (log 25, the model's choice). -/
def Event.mayHaveArrived : Event → List Byte → Prop
  | .frame f _, bs      => ∃ k, k ≤ 6 ∧ bs = f.toBytes.take k
  | .gacq _ _ _ _, bs   => bs = []
  | .gset _ _, bs       => bs = []
  | .grel, bs           => bs = []
  | .settle _, bs       => bs = []

end Sys2Proof.Machine
end

