-- ==== Sys2Proof/Machine/Codec.lean ====
section
/-! DEFINITION. The seven frame kinds (R134 to R140) as encode requests on the codec port (R47; log 1): the word's
register and parameter are driven as ENC_REG and ENC_PARAM, and ENC_OK and ENC_FRAME answer at once (`State.encOk`,
`State.encFrame`). The port has no checksum input: the word's checksum byte is the row's result, not an operand. -/

namespace Sys2Proof.Machine

open Sys2Proof

/-- FRM_MODE (R134): `encode(0x01, zext_16(mode))`. -/
def execFrmMode (value _ck : Byte) (s : State) : Host.Outcome State Fault Refusal :=
  .next (s.drivePort Register.mode.id (value.setWidth 16))

/-- FRM_CHANNELENABLE (R135): `encode(0x02, zext_16(mask))`. -/
def execFrmChannelEnable (value _ck : Byte) (s : State) : Host.Outcome State Fault Refusal :=
  .next (s.drivePort Register.channelEnable.id (value.setWidth 16))

/-- FRM_ANGLE1 (R136): `encode(0x03, zext_16(angle))`. -/
def execFrmAngle1 (value _ck : Byte) (s : State) : Host.Outcome State Fault Refusal :=
  .next (s.drivePort Register.angle1.id (value.setWidth 16))

/-- FRM_ANGLE2 (R137): `encode(0x04, zext_16(angle))`. -/
def execFrmAngle2 (value _ck : Byte) (s : State) : Host.Outcome State Fault Refusal :=
  .next (s.drivePort Register.angle2.id (value.setWidth 16))

/-- FRM_FREQUENCY (R138): `encode(0x05, zext_16(hz))`. -/
def execFrmFrequency (value _ck : Byte) (s : State) : Host.Outcome State Fault Refusal :=
  .next (s.drivePort Register.frequency.id (value.setWidth 16))

/-- FRM_RESET (R139): `encode(0x06, delay_ms)`. -/
def execFrmReset (param : Half) (_ck : Byte) (s : State) : Host.Outcome State Fault Refusal :=
  .next (s.drivePort Register.reset.id param)

/-- FRM_BAUDRATE (R140): `encode(0x07, code)`. -/
def execFrmBaudrate (param : Half) (_ck : Byte) (s : State) : Host.Outcome State Fault Refusal :=
  .next (s.drivePort Register.baudrate.id param)

end Sys2Proof.Machine
end

