-- ==== Sys2Proof/Machine/OutputLine.lean ====
section
/-! DEFINITION. The Polarity-Aware Output Line's commands (43_output_line.md), each in the order of checks of R238. No
line command waits for a settle interval. -/

namespace Sys2Proof.Machine

open Sys2Proof

/-- LINIT (R202): no capability call unless the line is UNINIT (R200). -/
def execLinit (ch : BitVec 4) (data : BitVec 24) (s : State) : Host.Outcome State Fault Refusal :=
  .next (
    if reservedSet ch then s.raise .invalidParam
    else if data > 1 then s.raise .invalidParam
    else match s.line with
      | .uninit   => s.request (.gpioAcquire (levelOf data) (initialPhys data s.lineAl))
      | .init _   => s.raise .acqError
      | .released => s.raise .acqError)

/-- LON (R205, R206): no capability call unless the line is INIT (R208). -/
def execLon (ch : BitVec 4) (data : BitVec 24) (s : State) : Host.Outcome State Fault Refusal :=
  .next (
    if reservedSet ch || reservedSet data then s.raise .invalidParam
    else match s.line with
      | .init _   => s.request (.gpioSet .active (onPhys s.devAl))
      | .uninit   => s.raise .notInit
      | .released => s.raise .notInit)

/-- LOFF (R206, R207): no capability call unless the line is INIT (R208). -/
def execLoff (ch : BitVec 4) (data : BitVec 24) (s : State) : Host.Outcome State Fault Refusal :=
  .next (
    if reservedSet ch || reservedSet data then s.raise .invalidParam
    else match s.line with
      | .init _   => s.request (.gpioSet .inactive (offPhys s.devAl))
      | .uninit   => s.raise .notInit
      | .released => s.raise .notInit)

/-- LSETPOL (R209, R210): accepted in every line state; it never drives the line. -/
def execLsetpol (ch : BitVec 4) (data : BitVec 24) (s : State) : Host.Outcome State Fault Refusal :=
  .next (
    if reservedSet ch then s.raise .invalidParam
    else if data > 1 then s.raise .invalidParam
    else (s.setDevAl (decide (data = 1))).returnOk)

/-- LREL (R211, R212): CH and DATA are ignored (R104); it never fails. -/
def execLrel (_ch : BitVec 4) (_data : BitVec 24) (s : State) : Host.Outcome State Fault Refusal :=
  .next s.releaseLine.returnOk

end Sys2Proof.Machine
end

