-- ==== Sys2Proof/Machine/Session.lean ====
section
/-! DEFINITION. The Device Session's commands (42_device_session.md), each in the order of checks of R238. -/

namespace Sys2Proof.Machine

open Sys2Proof

/-- SETMODE (R161). -/
def execSetmode (ch : BitVec 4) (data : BitVec 24) (s : State) : Host.Outcome State Fault Refusal :=
  .next (
    if reservedSet ch then s.raise .invalidParam
    else if data > 1 then s.raise .invalidParam
    else (s.setLastMode (modeOf data)).issue .mode (bitParam data))

/-- ENCH (R163): the frame carries the full new mask, committed before the write (R183). -/
def execEnch (ch : BitVec 4) (data : BitVec 24) (s : State) : Host.Outcome State Fault Refusal :=
  .next (
    if reservedSet data then s.raise .invalidParam
    else match channelOf ch with
      | none   => s.raise .invalidParam
      | some c =>
        (s.setMask (maskEnabling s.mask c)).issue .channelEnable (maskParam (maskEnabling s.mask c)))

/-- DISCH (R166): the frame carries the full new mask, committed before the write (R183). -/
def execDisch (ch : BitVec 4) (data : BitVec 24) (s : State) : Host.Outcome State Fault Refusal :=
  .next (
    if reservedSet data then s.raise .invalidParam
    else match channelOf ch with
      | none   => s.raise .invalidParam
      | some c =>
        (s.setMask (maskDisabling s.mask c)).issue .channelEnable (maskParam (maskDisabling s.mask c)))

/-- SETANG (R169, R171): the channel check comes before the angle check (R238). -/
def execSetang (ch : BitVec 4) (data : BitVec 24) (s : State) : Host.Outcome State Fault Refusal :=
  .next (
    match channelOf ch with
    | none   => s.raise .invalidParam
    | some c =>
      if data > 179 then s.raise .invalidParam
      else s.issue (angleRegister c) (byteParam data))

/-- SETFREQ (R172): the whole DATA is compared; another value is a no-op with status OK. -/
def execSetfreq (ch : BitVec 4) (data : BitVec 24) (s : State) : Host.Outcome State Fault Refusal :=
  .next (
    if reservedSet ch then s.raise .invalidParam
    else if data = 50 ∨ data = 60 then s.issue .frequency (byteParam data)
    else s.returnOk)

/-- RESET (R175, R176): the mask and the last mode are not changed. -/
def execReset (ch : BitVec 4) (data : BitVec 24) (s : State) : Host.Outcome State Fault Refusal :=
  .next (
    if reservedSet ch then s.raise .invalidParam
    else if data > 0xFFFF then s.raise .invalidParam
    else s.issue .reset (halfParam data))

/-- SETBAUD (R178, R179): a rate outside the table is ignored with status OK; the sink is not reconfigured (R180). -/
def execSetbaud (ch : BitVec 4) (data : BitVec 24) (s : State) : Host.Outcome State Fault Refusal :=
  .next (
    if reservedSet ch then s.raise .invalidParam
    else match baudCode s.cfg data.toNat with
      | none   => s.returnOk
      | some c => s.issue .baudrate c)

end Sys2Proof.Machine
end

