-- ==== Sys2Proof/Syntax.lean ====
section
/-! DEFINITION. The instructions: one constructor per row of spec/opcode_table.json. -/

namespace Sys2Proof

/-- The twelve command words (R101) with their fields CH = bits [27:24] and DATA = bits [23:0], kept whole in every
command, since a reserved field that is not zero is the block's to answer (R104) and LREL ignores both. Then the seven
frame kinds (R93) with the bytes the row leaves free: the value or parameter, and the checksum byte. -/
inductive Instr where
  | setmode (ch : BitVec 4) (data : BitVec 24)
  | ench    (ch : BitVec 4) (data : BitVec 24)
  | disch   (ch : BitVec 4) (data : BitVec 24)
  | setang  (ch : BitVec 4) (data : BitVec 24)
  | setfreq (ch : BitVec 4) (data : BitVec 24)
  | reset   (ch : BitVec 4) (data : BitVec 24)
  | setbaud (ch : BitVec 4) (data : BitVec 24)
  | linit   (ch : BitVec 4) (data : BitVec 24)
  | lon     (ch : BitVec 4) (data : BitVec 24)
  | loff    (ch : BitVec 4) (data : BitVec 24)
  | lsetpol (ch : BitVec 4) (data : BitVec 24)
  | lrel    (ch : BitVec 4) (data : BitVec 24)
  | frmMode          (value : Byte) (ck : Byte)
  | frmChannelEnable (value : Byte) (ck : Byte)
  | frmAngle1        (value : Byte) (ck : Byte)
  | frmAngle2        (value : Byte) (ck : Byte)
  | frmFrequency     (value : Byte) (ck : Byte)
  | frmReset         (param : Half) (ck : Byte)
  | frmBaudrate      (param : Half) (ck : Byte)
  deriving DecidableEq, Repr

/-- The opcodes of R101 that spell a command. -/
inductive Opcode where
  | setmode | ench | disch | setang | setfreq | reset | setbaud | linit | lon | loff | lsetpol | lrel
  deriving DecidableEq, Repr

end Sys2Proof
end

