-- ==== Sys2Proof/Machine/Dispatch.lean ====
section
/-! DEFINITION. The meaning of every instruction: one arm per constructor of Instr. -/

namespace Sys2Proof.Machine

open Sys2Proof

def exec (i : Instr) (s : State) : Host.Outcome State Fault Refusal :=
  match i with
  | .setmode ch data => Sys2Proof.Machine.execSetmode ch data s
  | .ench ch data => Sys2Proof.Machine.execEnch ch data s
  | .disch ch data => Sys2Proof.Machine.execDisch ch data s
  | .setang ch data => Sys2Proof.Machine.execSetang ch data s
  | .setfreq ch data => Sys2Proof.Machine.execSetfreq ch data s
  | .reset ch data => Sys2Proof.Machine.execReset ch data s
  | .setbaud ch data => Sys2Proof.Machine.execSetbaud ch data s
  | .linit ch data => Sys2Proof.Machine.execLinit ch data s
  | .lon ch data => Sys2Proof.Machine.execLon ch data s
  | .loff ch data => Sys2Proof.Machine.execLoff ch data s
  | .lsetpol ch data => Sys2Proof.Machine.execLsetpol ch data s
  | .lrel ch data => Sys2Proof.Machine.execLrel ch data s
  | .frmMode value ck => Sys2Proof.Machine.execFrmMode value ck s
  | .frmChannelEnable value ck => Sys2Proof.Machine.execFrmChannelEnable value ck s
  | .frmAngle1 value ck => Sys2Proof.Machine.execFrmAngle1 value ck s
  | .frmAngle2 value ck => Sys2Proof.Machine.execFrmAngle2 value ck s
  | .frmFrequency value ck => Sys2Proof.Machine.execFrmFrequency value ck s
  | .frmReset param ck => Sys2Proof.Machine.execFrmReset param ck s
  | .frmBaudrate param ck => Sys2Proof.Machine.execFrmBaudrate param ck s

end Sys2Proof.Machine
end

