-- ==== Sys2Proof/Decode.lean ====
section
/-! DEFINITION. Decoding of the two encodings (30_encoding.md), total on every word and rejecting by name, and the
encoder, written from the same tables (R90, R93, R100, R101). -/

namespace Sys2Proof

/-- Why a word is no instruction. -/
inductive Reject where
  /-- OP is 0x0, 0xD, 0xE or 0xF (R103). -/
  | illegalOpcode
  /-- F[0] or F[1] is not the header constant (R91). -/
  | badHeader
  /-- F[2] is 0x00 or 0x08 to 0xFF (R97). -/
  | undefinedRegister
  /-- F[3] of a single-byte register is not 0x00 (R95, R98). -/
  | paramHighNotZero
  /-- The bytes are not six (R99). -/
  | frameLength
  deriving DecidableEq, Repr

/-- OP, bits [31:28] (R100). -/
def cmdOp (w : CmdWord) : BitVec 4 := w.extractLsb' 28 4
/-- CH, bits [27:24] (R100). -/
def cmdCh (w : CmdWord) : BitVec 4 := w.extractLsb' 24 4
/-- DATA, bits [23:0] (R100). -/
def cmdData (w : CmdWord) : BitVec 24 := w.extractLsb' 0 24

/-- The opcode map of R101; 0x0 and 0xD to 0xF spell no command (R103). -/
def Opcode.ofBits (op : BitVec 4) : Option Opcode :=
  if op = 0x1 then some .setmode
  else if op = 0x2 then some .ench
  else if op = 0x3 then some .disch
  else if op = 0x4 then some .setang
  else if op = 0x5 then some .setfreq
  else if op = 0x6 then some .reset
  else if op = 0x7 then some .setbaud
  else if op = 0x8 then some .linit
  else if op = 0x9 then some .lon
  else if op = 0xA then some .loff
  else if op = 0xB then some .lsetpol
  else if op = 0xC then some .lrel
  else none

/-- The command an opcode spells with its fields. -/
def Opcode.instr (ch : BitVec 4) (data : BitVec 24) : Opcode → Instr
  | .setmode => .setmode ch data
  | .ench    => .ench ch data
  | .disch   => .disch ch data
  | .setang  => .setang ch data
  | .setfreq => .setfreq ch data
  | .reset   => .reset ch data
  | .setbaud => .setbaud ch data
  | .linit   => .linit ch data
  | .lon     => .lon ch data
  | .loff    => .loff ch data
  | .lsetpol => .lsetpol ch data
  | .lrel    => .lrel ch data

/-- Steps 1 and 2 of R102. A reserved field that is not zero still decodes: its answer is the block's (R104). -/
def decodeCmd (w : CmdWord) : Except Reject Instr :=
  match Opcode.ofBits (cmdOp w) with
  | none    => .error .illegalOpcode
  | some op => .ok (op.instr (cmdCh w) (cmdData w))

/-- A frame of the table, by its header, register id and high parameter byte (R90, R93, R95). The checksum byte is
carried, not checked: the table's mask leaves it free, and whether it is right depends on CKSUM (log 1). -/
def decodeFrame (f : Frame) : Except Reject Instr :=
  if f.header1 ≠ 0x57 ∨ f.header2 ≠ 0x68 then .error .badHeader
  else match Register.ofId f.register with
    | none => .error .undefinedRegister
    | some .mode =>
      if f.paramHigh = 0x00 then .ok (.frmMode f.paramLow f.checksum) else .error .paramHighNotZero
    | some .channelEnable =>
      if f.paramHigh = 0x00 then .ok (.frmChannelEnable f.paramLow f.checksum) else .error .paramHighNotZero
    | some .angle1 =>
      if f.paramHigh = 0x00 then .ok (.frmAngle1 f.paramLow f.checksum) else .error .paramHighNotZero
    | some .angle2 =>
      if f.paramHigh = 0x00 then .ok (.frmAngle2 f.paramLow f.checksum) else .error .paramHighNotZero
    | some .frequency =>
      if f.paramHigh = 0x00 then .ok (.frmFrequency f.paramLow f.checksum) else .error .paramHighNotZero
    | some .reset => .ok (.frmReset (f.paramHigh ++ f.paramLow) f.checksum)
    | some .baudrate => .ok (.frmBaudrate (f.paramHigh ++ f.paramLow) f.checksum)

def decode : InstrWord → Except Reject Instr
  | .cmd32 w   => decodeCmd w
  | .frame48 w => decodeFrame (Frame.ofBits w)

/-- A byte sequence as a frame instruction, F[0] first (R72, R99). -/
def decodeFrameBytes (bs : List Byte) : Except Reject Instr :=
  match Frame.ofBytes bs with
  | none   => .error .frameLength
  | some f => decodeFrame f

/-- `CMD = (OP << 28) | (CH << 24) | DATA` (R100). -/
def cmdWord (op ch : BitVec 4) (data : BitVec 24) : CmdWord := op ++ ch ++ data

/-- The word of a frame row: header, register id, parameter bytes, checksum byte (R90). -/
def frameWord (reg paramHigh paramLow ck : Byte) : FrameWord :=
  Frame.toBits ⟨0x57, 0x68, reg, paramHigh, paramLow, ck⟩

def encode : Instr → InstrWord
  | .setmode ch data => .cmd32 (cmdWord 0x1 ch data)
  | .ench ch data    => .cmd32 (cmdWord 0x2 ch data)
  | .disch ch data   => .cmd32 (cmdWord 0x3 ch data)
  | .setang ch data  => .cmd32 (cmdWord 0x4 ch data)
  | .setfreq ch data => .cmd32 (cmdWord 0x5 ch data)
  | .reset ch data   => .cmd32 (cmdWord 0x6 ch data)
  | .setbaud ch data => .cmd32 (cmdWord 0x7 ch data)
  | .linit ch data   => .cmd32 (cmdWord 0x8 ch data)
  | .lon ch data     => .cmd32 (cmdWord 0x9 ch data)
  | .loff ch data    => .cmd32 (cmdWord 0xA ch data)
  | .lsetpol ch data => .cmd32 (cmdWord 0xB ch data)
  | .lrel ch data    => .cmd32 (cmdWord 0xC ch data)
  | .frmMode value ck          => .frame48 (frameWord 0x01 0x00 value ck)
  | .frmChannelEnable value ck => .frame48 (frameWord 0x02 0x00 value ck)
  | .frmAngle1 value ck        => .frame48 (frameWord 0x03 0x00 value ck)
  | .frmAngle2 value ck        => .frame48 (frameWord 0x04 0x00 value ck)
  | .frmFrequency value ck     => .frame48 (frameWord 0x05 0x00 value ck)
  | .frmReset param ck         => .frame48 (frameWord 0x06 (param.extractLsb' 8 8) (param.extractLsb' 0 8) ck)
  | .frmBaudrate param ck      => .frame48 (frameWord 0x07 (param.extractLsb' 8 8) (param.extractLsb' 0 8) ck)

/-- A row of the opcode table: a word is of the row when its bits under `mask` are `pattern`. -/
structure TableRow where
  width   : Nat
  pattern : Nat
  mask    : Nat
  deriving DecidableEq, Repr

/-- The row of spec/opcode_table.json that an instruction belongs to. -/
def tableRow : Instr → TableRow
  | .setmode _ _ => ⟨32, 0x10000000, 0xF0000000⟩
  | .ench _ _    => ⟨32, 0x20000000, 0xF0000000⟩
  | .disch _ _   => ⟨32, 0x30000000, 0xF0000000⟩
  | .setang _ _  => ⟨32, 0x40000000, 0xF0000000⟩
  | .setfreq _ _ => ⟨32, 0x50000000, 0xF0000000⟩
  | .reset _ _   => ⟨32, 0x60000000, 0xF0000000⟩
  | .setbaud _ _ => ⟨32, 0x70000000, 0xF0000000⟩
  | .linit _ _   => ⟨32, 0x80000000, 0xF0000000⟩
  | .lon _ _     => ⟨32, 0x90000000, 0xF0000000⟩
  | .loff _ _    => ⟨32, 0xA0000000, 0xF0000000⟩
  | .lsetpol _ _ => ⟨32, 0xB0000000, 0xF0000000⟩
  | .lrel _ _    => ⟨32, 0xC0000000, 0xF0000000⟩
  | .frmMode _ _          => ⟨48, 0x576801000000, 0xFFFFFFFF0000⟩
  | .frmChannelEnable _ _ => ⟨48, 0x576802000000, 0xFFFFFFFF0000⟩
  | .frmAngle1 _ _        => ⟨48, 0x576803000000, 0xFFFFFFFF0000⟩
  | .frmAngle2 _ _        => ⟨48, 0x576804000000, 0xFFFFFFFF0000⟩
  | .frmFrequency _ _     => ⟨48, 0x576805000000, 0xFFFFFFFF0000⟩
  | .frmReset _ _         => ⟨48, 0x576806000000, 0xFFFFFF000000⟩
  | .frmBaudrate _ _      => ⟨48, 0x576807000000, 0xFFFFFF000000⟩

/-- A word is of a row: of its width, and with the row's bits under its mask. -/
def InstrWord.ofRow (r : TableRow) : InstrWord → Prop
  | .cmd32 w   => r.width = 32 ∧ w &&& BitVec.ofNat 32 r.mask = BitVec.ofNat 32 r.pattern
  | .frame48 w => r.width = 48 ∧ w &&& BitVec.ofNat 48 r.mask = BitVec.ofNat 48 r.pattern

/-- An instruction whose bits are `w`, numbered as the opcode table numbers them: up to 32 bits a command word, above
that a frame word with F[0] in bits [47:40]; bits above `nbits` are zero. -/
def tableWord (nbits w : Nat) : InstrWord :=
  if nbits ≤ 32 then .cmd32 (BitVec.ofNat 32 (w % 2 ^ nbits)) else .frame48 (BitVec.ofNat 48 (w % 2 ^ nbits))

/-- What the decoder reads from an instruction numbered as the table numbers it. -/
def decodeTableWord (nbits w : Nat) : Option Instr :=
  match decode (tableWord nbits w) with
  | .ok i    => some i
  | .error _ => none

end Sys2Proof
end

