-- ==== Sys2Proof/Machine/Fetch.lean ====
section
/-! DEFINITION. What the block takes next (R46, R47, R51, R102): the host's next action, or, while a command is in
flight and the action must wait, the answer of the external agent. -/

namespace Sys2Proof.Machine

open Sys2Proof

/-- An instruction to run in a state, or a step that runs none. -/
inductive Fetched where
  | run  (i : Instr) (t : State)
  | done (o : Host.Outcome State Fault Refusal)

/-- A command word accepted in `t` (R102): an illegal opcode answers ILLEGAL_CMD (R103, R236). -/
def acceptCmd (w : CmdWord) (t : State) : Fetched :=
  match decode (.cmd32 w) with
  | .ok i    => .run i t
  | .error _ => .done (.next (t.raise .illegalCmd))

/-- A FRAME48 word presented for encoding in `t` (R47, R97; log 1, 15). -/
def acceptFrame (w : FrameWord) (t : State) : Fetched :=
  match decode (.frame48 w) with
  | .ok i    => .run i t
  | .error _ => .done (.fault .notAFrame)

/-- The host's next action is taken: a command or an `RST` only while `S.busy = 0` (R46, R261; log 12), an action on
the codec port always (R47; log 17). Otherwise the agent of the request in flight is asked; with nothing in flight and
no action the block waits (R262). -/
def fetch (s : State) : Fetched :=
  match s.inbox with
  | [] => .done (.next s.poll)
  | .codec reg param :: rest => .done (.next ({ s with inbox := rest }.drivePort reg param))
  | .word (.frame48 w) :: rest => acceptFrame w { s with inbox := rest }
  | .word (.cmd32 w) :: rest =>
    if s.busy then .done (.next s.poll) else acceptCmd w { s with inbox := rest }
  | .rst :: rest =>
    if s.busy then .done (.next s.poll) else .done (.next { s with inbox := rest }.rst)

/-- `w` becomes the host's very next action; a command word is accepted at once only by a block with nothing in flight
(R46), so that is set too. -/
def State.present (s : State) (w : InstrWord) : State :=
  match w with
  | .cmd32 c   => { s with inbox := .word (.cmd32 c) :: s.inbox, inflight := none }
  | .frame48 f => { s with inbox := .word (.frame48 f) :: s.inbox }

end Sys2Proof.Machine
end

