-- ==== Sys2Proof/Machine/Step.lean ====
section
/-! DEFINITION. One step of the block: the host's next action or the answer the block waits for (Fetch.lean), and the
meaning of the instruction presented, if there is one (Dispatch.lean). -/

namespace Sys2Proof.Machine

open Sys2Proof

/-- One transaction (R18). -/
def step (s : State) : Host.Outcome State Fault Refusal :=
  match fetch s with
  | .run i t => exec i t
  | .done o  => o

/-- `s` with the instruction whose bits are `w` (numbered as spec/opcode_table.json numbers them) as the host's very next
action, so that the next step runs it (log 2). -/
def State.withFetchWord (s : State) (nbits w : Nat) : State := s.present (tableWord nbits w)

end Sys2Proof.Machine
end

