-- ==== Sys2Proof/Machine/Assembler.lean ====
section
/-! DEFINITION. The assembler of R106 and R107: the lines of the table as data, the text of a line read into them, and
the command words they stand for. It passes every operand that fits its field, "so that INVALID_PARAM is the block's
verdict rather than the assembler's" (R106). -/

namespace Sys2Proof.Machine

open Sys2Proof

/-- One line of R106 or a pseudo-instruction of R107. -/
inductive Asm where
  | setmode (mode : Nat)
  | ench    (ch : Nat)
  | disch   (ch : Nat)
  | setang  (ch angle : Nat)
  | setfreq (hz : Nat)
  | reset   (delayMs : Nat)
  | setbaud (bps : Nat)
  | linit   (level : Nat)
  | lon
  | loff
  | lsetpol (activeLow : Nat)
  | lrel
  | on1
  | off1
  | shutdown
  deriving DecidableEq, Repr

/-- Why a line is rejected. -/
inductive AsmError where
  | unknownLine | badNumber | chDoesNotFit | dataDoesNotFit
  deriving DecidableEq, Repr

/-- A CH operand: "a ch outside 0..15" is rejected (R106). -/
def asmCh (n : Nat) : Except AsmError (BitVec 4) :=
  if n ≤ 15 then .ok (BitVec.ofNat 4 n) else .error .chDoesNotFit

/-- A DATA operand: "a DATA value above 0xFFFFFF" is rejected (R106). -/
def asmData (n : Nat) : Except AsmError (BitVec 24) :=
  if n ≤ 0xFFFFFF then .ok (BitVec.ofNat 24 n) else .error .dataDoesNotFit

/-- The instructions a line stands for: one for a command (R106), the expansion for a pseudo-instruction (R107). -/
def Asm.instrs : Asm → Except AsmError (List Instr)
  | .setmode m   => do return [.setmode 0 (← asmData m)]
  | .ench c      => do return [.ench (← asmCh c) 0]
  | .disch c     => do return [.disch (← asmCh c) 0]
  | .setang c a  => do
    let ch ← asmCh c
    return [.setang ch (← asmData a)]
  | .setfreq hz  => do return [.setfreq 0 (← asmData hz)]
  | .reset d     => do return [.reset 0 (← asmData d)]
  | .setbaud b   => do return [.setbaud 0 (← asmData b)]
  | .linit l     => do return [.linit 0 (← asmData l)]
  | .lon         => .ok [.lon 0 0]
  | .loff        => .ok [.loff 0 0]
  | .lsetpol p   => do return [.lsetpol 0 (← asmData p)]
  | .lrel        => .ok [.lrel 0 0]
  | .on1         => .ok [.setmode 0 1, .ench 1 0]
  | .off1        => .ok [.setmode 0 1, .disch 1 0]
  | .shutdown    => .ok [.disch 1 0, .disch 2 0, .loff 0 0, .lrel 0 0]

/-- The words of a line. -/
def Asm.words (a : Asm) : Except AsmError (List InstrWord) := do return (← a.instrs).map encode

/-- A token of a line: a run of characters, or the comma between two operands (log 23). -/
inductive Token where
  | text (cs : List Char)
  | comma
  deriving DecidableEq, Repr

/-- The run of characters collected so far, newest first, before the tokens `ts`. -/
def closeToken (acc : List Char) (ts : List Token) : List Token :=
  match acc with
  | []     => ts
  | _ :: _ => .text acc.reverse :: ts

/-- The tokens of a line; `;` starts a comment (R106). -/
def lexLine : List Char → List Char → List Token
  | [], acc => closeToken acc []
  | c :: cs, acc =>
    if c = ';' then closeToken acc []
    else if c = ' ' ∨ c = '\t' ∨ c = '\r' then closeToken acc (lexLine cs [])
    else if c = ',' then closeToken acc (.comma :: lexLine cs [])
    else lexLine cs (c :: acc)

/-- A digit of a decimal (`base` 10) or hexadecimal (`base` 16) literal. -/
def digitValue (base : Nat) (c : Char) : Option Nat :=
  let v :=
    if '0' ≤ c ∧ c ≤ '9' then some (c.toNat - '0'.toNat)
    else if 'a' ≤ c ∧ c ≤ 'f' then some (c.toNat - 'a'.toNat + 10)
    else if 'A' ≤ c ∧ c ≤ 'F' then some (c.toNat - 'A'.toNat + 10)
    else none
  v.filter (· < base)

/-- The digits of a literal, most significant first. -/
def readDigits (base : Nat) : List Char → Nat → Option Nat
  | [], n => some n
  | c :: cs, n =>
    match digitValue base c with
    | none   => none
    | some d => readDigits base cs (n * base + d)

/-- "A numeric operand is a decimal or `0x` hexadecimal literal" (R106). -/
def readNumber : List Char → Option Nat
  | '0' :: 'x' :: d :: ds => readDigits 16 (d :: ds) 0
  | d :: ds               => readDigits 10 (d :: ds) 0
  | []                    => none

/-- A numeric operand of a line. -/
def numberOperand (cs : List Char) : Except AsmError Nat :=
  match readNumber cs with
  | none   => .error .badNumber
  | some n => .ok n

/-- The operand of `setmode`: `phase`, `switch` (R106), or a number (log 23). -/
def modeOperand (cs : List Char) : Except AsmError Nat :=
  if cs = "phase".toList then .ok 0
  else if cs = "switch".toList then .ok 1
  else numberOperand cs

/-- The operand of `linit`: `inactive`, `active` (R106), or a number (log 23). -/
def levelOperand (cs : List Char) : Except AsmError Nat :=
  if cs = "inactive".toList then .ok 0
  else if cs = "active".toList then .ok 1
  else numberOperand cs

/-- A line without operands. -/
def parseBare (name : List Char) : Except AsmError Asm :=
  if name = "lon".toList then .ok .lon
  else if name = "loff".toList then .ok .loff
  else if name = "lrel".toList then .ok .lrel
  else if name = "on1".toList then .ok .on1
  else if name = "off1".toList then .ok .off1
  else if name = "shutdown".toList then .ok .shutdown
  else .error .unknownLine

/-- A line with one operand. -/
def parseUnary (name x : List Char) : Except AsmError Asm :=
  if name = "setmode".toList then do return .setmode (← modeOperand x)
  else if name = "ench".toList then do return .ench (← numberOperand x)
  else if name = "disch".toList then do return .disch (← numberOperand x)
  else if name = "setfreq".toList then do return .setfreq (← numberOperand x)
  else if name = "reset".toList then do return .reset (← numberOperand x)
  else if name = "setbaud".toList then do return .setbaud (← numberOperand x)
  else if name = "linit".toList then do return .linit (← levelOperand x)
  else if name = "lsetpol".toList then do return .lsetpol (← numberOperand x)
  else .error .unknownLine

/-- A line of R106 or R107; `none` is a line with no command on it. -/
def parseLine (line : List Char) : Except AsmError (Option Asm) :=
  match lexLine line [] with
  | [] => .ok none
  | [.text name] => do return some (← parseBare name)
  | [.text name, .text x] => do return some (← parseUnary name x)
  | [.text name, .text x, .comma, .text y] =>
    if name = "setang".toList then do
      let ch ← numberOperand x
      return some (.setang ch (← numberOperand y))
    else .error .unknownLine
  | _ => .error .unknownLine

/-- The words of one line of text. -/
def assembleLine (line : List Char) : Except AsmError (List InstrWord) := do
  match ← parseLine line with
  | none   => return []
  | some a => a.words

/-- The words of a text, one command a line (R106). -/
def assemble : List (List Char) → Except AsmError (List InstrWord)
  | [] => .ok []
  | l :: ls => do
    let ws ← assembleLine l
    return ws ++ (← assemble ls)

end Sys2Proof.Machine
end

