-- ==== Sys2Proof/Machine/HostProgram.lean ====
section
/-! DEFINITION. The reference control loop of R190 to R193: a host program over the command port, with no state in the
block. Its setup before the first tick is not in the source (R190), so there is none here. -/

namespace Sys2Proof.Machine

open Sys2Proof

/-- The angle of tick `c` (R191). -/
def ramp (c : Nat) : Nat := if c ≤ 179 then c else 359 - c

/-- `c = (c + 1) mod 360` (R190). -/
def rampNext (c : Nat) : Nat := (c + 1) % 360

/-- The lines of one tick (R190): the same angle to channel 1, then to channel 2 (R192), and `shutdown` when the host's
stop flag is set (R193). -/
def rampTick (c : Nat) (stop : Bool) : List Asm :=
  [.setang 1 (ramp c), .setang 2 (ramp c)] ++ (if stop then [.shutdown] else [])

/-- The lines of `n` ticks from counter `c`, without a stop. -/
def rampTicks : Nat → Nat → List Asm
  | 0, _     => []
  | n + 1, c => rampTick c false ++ rampTicks n (rampNext c)

end Sys2Proof.Machine
end

