-- ==== Sys2Proof/Machine/Flags.lean ====
section
/-! DEFINITION. The block has no flags (R53): its one per-command result is the response status. Here are the status
codes (R230), the command port's outputs (R46) and the observation port (R50). -/

namespace Sys2Proof.Machine

open Sys2Proof

/-- The 3-bit code of a status (R230). -/
def Status.code : Status → BitVec 3
  | .ok           => 0
  | .ioError      => 1
  | .acqError     => 2
  | .notInit      => 3
  | .invalidParam => 4
  | .illegalCmd   => 5

/-- `CMD_READY`: 1 exactly when `S.busy = 0` (R46). -/
def State.cmdReady (s : State) : Bool := !s.busy

/-- `RSP_VALID`: a command has been answered and none has been accepted since (R46; log 14). -/
def State.rspValid (s : State) : Bool := s.rsp.isSome && !s.busy

/-- `RSP_STATUS[2:0]` (R46, R230), of the last answered command; none before the first. -/
def State.rspStatus (s : State) : Option (BitVec 3) := s.rsp.map Status.code

/-- `OBS_MODE` (R50). -/
def obsMode : Option Mode → BitVec 2
  | none             => 0b00
  | some .phaseAngle => 0b10
  | some .switch     => 0b11

/-- `OBS_LSTATE` (R50). -/
def obsLstate : Line → BitVec 2
  | .uninit   => 0
  | .init _   => 1
  | .released => 2

/-- `OBS_LEVEL` (R50): valid only in INIT; elsewhere the read is refused (R37, I17). -/
def obsLevel : Line → Option (BitVec 1)
  | .init .active   => some 1
  | .init .inactive => some 0
  | .uninit         => none
  | .released       => none

/-- `OBS_PHYS` (R50). -/
def obsPhys : Option Phys → BitVec 2
  | none       => 0b00
  | some .low  => 0b10
  | some .high => 0b11

/-- The observation port (R50). -/
structure Obs where
  mask   : BitVec 8
  mode   : BitVec 2
  lstate : BitVec 2
  level  : Option (BitVec 1)
  devAl  : Bool
  lineAl : Bool
  phys   : BitVec 2
  busy   : Bool
  deriving DecidableEq, Repr

/-- What the observation port shows (R50): combinational, without a side effect. -/
def State.obs (s : State) : Obs :=
  { mask   := s.mask
    mode   := obsMode s.lastMode
    lstate := obsLstate s.line
    level  := obsLevel s.line
    devAl  := s.devAl
    lineAl := s.lineAl
    phys   := obsPhys s.lastPhys
    busy   := s.busy }

end Sys2Proof.Machine
end

