-- ==== Sys2Proof/WellFormed.lean ====
section
/-! DEFINITION. Well-formed instructions. A command is well-formed when the block admits its operands by value (R19,
R101, R234); a frame word is well-formed when its checksum byte is the one of the policy (R98). Every term of `Instr`
encodes; an ill-formed command still runs and answers INVALID_PARAM. -/

namespace Sys2Proof

/-- A channel field names a channel: 1 or 2 (R101). -/
def chNamesChannel (ch : BitVec 4) : Bool := decide (ch.toNat = 1 ∨ ch.toNat = 2)

/-- The checksum byte of a frame word is the policy's (R92, R98). -/
def ckMatches (p : Cksum) (reg paramHigh paramLow ck : Byte) : Bool :=
  decide (ck = frameChecksum p 0x57 0x68 reg paramHigh paramLow)

def Instr.wf (p : Cksum) : Instr → Bool
  | .setmode ch data => decide (ch.toNat = 0) && decide (data.toNat ≤ 1)
  | .ench ch data    => decide (data.toNat = 0) && chNamesChannel ch
  | .disch ch data   => decide (data.toNat = 0) && chNamesChannel ch
  | .setang ch data  => chNamesChannel ch && decide (data.toNat ≤ 179)
  | .setfreq ch _    => decide (ch.toNat = 0)
  | .reset ch data   => decide (ch.toNat = 0) && decide (data.toNat ≤ 65535)
  | .setbaud ch _    => decide (ch.toNat = 0)
  | .linit ch data   => decide (ch.toNat = 0) && decide (data.toNat ≤ 1)
  | .lon ch data     => decide (ch.toNat = 0) && decide (data.toNat = 0)
  | .loff ch data    => decide (ch.toNat = 0) && decide (data.toNat = 0)
  | .lsetpol ch data => decide (ch.toNat = 0) && decide (data.toNat ≤ 1)
  | .lrel _ _        => true
  | .frmMode value ck          => ckMatches p 0x01 0x00 value ck
  | .frmChannelEnable value ck => ckMatches p 0x02 0x00 value ck
  | .frmAngle1 value ck        => ckMatches p 0x03 0x00 value ck
  | .frmAngle2 value ck        => ckMatches p 0x04 0x00 value ck
  | .frmFrequency value ck     => ckMatches p 0x05 0x00 value ck
  | .frmReset param ck         => ckMatches p 0x06 (param.extractLsb' 8 8) (param.extractLsb' 0 8) ck
  | .frmBaudrate param ck      => ckMatches p 0x07 (param.extractLsb' 8 8) (param.extractLsb' 0 8) ck

/-- The twelve command words, as against the seven frame kinds. -/
def Instr.isCommand : Instr → Bool
  | .setmode _ _ | .ench _ _ | .disch _ _ | .setang _ _ | .setfreq _ _ | .reset _ _ | .setbaud _ _ => true
  | .linit _ _ | .lon _ _ | .loff _ _ | .lsetpol _ _ | .lrel _ _ => true
  | .frmMode _ _ | .frmChannelEnable _ _ | .frmAngle1 _ _ | .frmAngle2 _ _ | .frmFrequency _ _ => false
  | .frmReset _ _ | .frmBaudrate _ _ => false

/-- The commands of the Device Session (42_device_session.md). -/
def Instr.isSession : Instr → Bool
  | .setmode _ _ | .ench _ _ | .disch _ _ | .setang _ _ | .setfreq _ _ | .reset _ _ | .setbaud _ _ => true
  | .linit _ _ | .lon _ _ | .loff _ _ | .lsetpol _ _ | .lrel _ _ => false
  | .frmMode _ _ | .frmChannelEnable _ _ | .frmAngle1 _ _ | .frmAngle2 _ _ | .frmFrequency _ _ => false
  | .frmReset _ _ | .frmBaudrate _ _ => false

end Sys2Proof
end

