-- ==== Sys2Proof/Safety.lean ====
section
/-! DEFINITION. What holds of every run of the block, in the terms the claims use: conditions on one state and on its
trace, and the checks of R238 in their order. -/

namespace Sys2Proof.Machine

open Sys2Proof

/-- Bits [7:2] of the channel-enable mask are 0 (R33). -/
def State.MaskInRange (s : State) : Prop := s.mask &&& 0xFC#8 = 0#8

/-- A frame event's frame is well-formed under the policy (R98); other events carry no frame. -/
def Event.frameOk (p : Cksum) : Event → Bool
  | .frame f _    => f.wellFormed p
  | .gacq _ _ _ _ => true
  | .gset _ _     => true
  | .grel         => true
  | .settle _     => true

/-- A request's frame is well-formed under the policy. -/
def Request.frameOk (p : Cksum) : Request → Bool
  | .sinkWrite f     => f.wellFormed p
  | .gpioAcquire _ _ => true
  | .gpioSet _ _     => true
  | .settle _        => true

/-- "Every frame the block writes is well-formed" (R98): in the trace and in flight. -/
def State.FramesWellFormed (s : State) : Prop :=
  (∀ ev ∈ s.trace, ev.frameOk s.cfg.cksum = true) ∧ (∀ q, s.inflight = some q → q.frameOk s.cfg.cksum = true)

/-- Every frame answered Ok is followed at once by the settle wait, and a settle wait stands nowhere else (R82, R160,
R181). -/
def settled (ms : Nat) : List Event → Bool
  | [] => true
  | .frame _ .ok :: .settle m :: rest => decide (m = ms) && settled ms rest
  | .frame _ .ok :: _    => false
  | .frame _ .ioErr :: t => settled ms t
  | .settle _ :: _       => false
  | .gacq _ _ _ _ :: t   => settled ms t
  | .gset _ _ :: t       => settled ms t
  | .grel :: t           => settled ms t

/-- The settle wait that a running timer still owes the trace. -/
def State.owedSettle (s : State) : List Event :=
  match s.inflight with
  | some (.settle _)        => [.settle s.cfg.settleMs]
  | some (.sinkWrite _)     => []
  | some (.gpioAcquire _ _) => []
  | some (.gpioSet _ _)     => []
  | none                    => []

/-- The trace with the wait still owed is settled (R82): the one frame whose wait may be missing is the last event, and its
timer is running. -/
def State.Settled (s : State) : Prop := settled s.cfg.settleMs (s.trace ++ s.owedSettle) = true

/-- What one event makes of the last physical level commanded (R40): an acquire or a set answered Ok writes it, a release
does not clear it. -/
def physAfter (p : Option Phys) : Event → Option Phys
  | .gacq _ _ lvl .ok   => some lvl
  | .gacq _ _ _ .acqErr => p
  | .gset lvl .ok       => some lvl
  | .gset _ .ioErr      => p
  | .frame _ _          => p
  | .grel               => p
  | .settle _           => p

/-- The last physical level a trace commanded. -/
def tracePhys (t : List Event) : Option Phys := t.foldl physAfter none

/-- Where a trace leaves the underlying line request (R36, R200): never held, held, or given back. -/
inductive Handle where
  | fresh | held | given
  deriving DecidableEq, Repr

/-- One event of the line's protocol: acquire only a fresh line, set and release only a held one (R200, R212). `none` is
a breach. -/
def handleAfter : Option Handle → Event → Option Handle
  | none, _ => none
  | some h, .frame _ _ => some h
  | some h, .settle _  => some h
  | some .fresh, .gacq _ _ _ .ok     => some .held
  | some .fresh, .gacq _ _ _ .acqErr => some .fresh
  | some .fresh, .gset _ _ => none
  | some .fresh, .grel     => none
  | some .held, .gacq _ _ _ _ => none
  | some .held, .gset _ _ => some .held
  | some .held, .grel     => some .given
  | some .given, .gacq _ _ _ _ => none
  | some .given, .gset _ _ => none
  | some .given, .grel     => none

/-- The handle after a whole trace. -/
def traceHandle (t : List Event) : Option Handle := t.foldl handleAfter (some .fresh)

/-- The line's lifecycle agrees with what the trace did to the capability (R36, R200): INIT holds the handle, UNINIT never
held it, RELEASED has given it back or never held it. -/
def Line.agrees : Line → Option Handle → Prop
  | .uninit, h   => h = some .fresh
  | .init _, h   => h = some .held
  | .released, h => h = some .given ∨ h = some .fresh

/-- The request in flight is one the line's state allows (R200): an acquire from UNINIT, a set from INIT. -/
def State.RequestAllowed (s : State) : Prop :=
  (∀ l p, s.inflight = some (.gpioAcquire l p) → s.line = .uninit) ∧
  (∀ l p, s.inflight = some (.gpioSet l p) → ∃ l', s.line = .init l')

/-- The block's bookkeeping of the line agrees with its trace (R36, R40, R200). -/
def State.LineAgrees (s : State) : Prop :=
  s.line.agrees (traceHandle s.trace) ∧ s.lastPhys = tracePhys s.trace ∧ s.RequestAllowed

/-- `S.rsp` is the last response given (R46, R53). -/
def State.ResponseRecorded (s : State) : Prop := s.rsp = s.responses.getLast?

/-- What every step of the block keeps. -/
structure State.Inv (s : State) : Prop where
  mask     : s.MaskInRange
  frames   : s.FramesWellFormed
  settle   : s.Settled
  line     : s.LineAgrees
  response : s.ResponseRecorded

/-- The checks a command makes before any external request, in the order of R238; the first that fails decides the status
(the opcode check is the decoder's). `none`: no check fails. -/
def firstFailingCheck (s : State) : Instr → Option Status
  | .setmode ch data =>
    if ch ≠ 0 then some .invalidParam else if 1 < data.toNat then some .invalidParam else none
  | .ench ch data | .disch ch data =>
    if data ≠ 0 then some .invalidParam
    else if ch.toNat = 1 ∨ ch.toNat = 2 then none else some .invalidParam
  | .setang ch data =>
    if ch.toNat = 1 ∨ ch.toNat = 2 then (if 179 < data.toNat then some .invalidParam else none)
    else some .invalidParam
  | .setfreq ch _ | .setbaud ch _ => if ch ≠ 0 then some .invalidParam else none
  | .reset ch data =>
    if ch ≠ 0 then some .invalidParam else if 65535 < data.toNat then some .invalidParam else none
  | .linit ch data =>
    if ch ≠ 0 then some .invalidParam
    else if 1 < data.toNat then some .invalidParam
    else if s.line = .uninit then none else some .acqError
  | .lon ch data | .loff ch data =>
    if ch ≠ 0 ∨ data ≠ 0 then some .invalidParam
    else if s.line.held then none else some .notInit
  | .lsetpol ch data =>
    if ch ≠ 0 then some .invalidParam else if 1 < data.toNat then some .invalidParam else none
  | .lrel _ _ => none
  | .frmMode _ _ | .frmChannelEnable _ _ | .frmAngle1 _ _ | .frmAngle2 _ _ | .frmFrequency _ _ => none
  | .frmReset _ _ | .frmBaudrate _ _ => none

/-- The state in which the request of `s` has just been answered with status `st`, its events `evs` logged: what every
completed command leaves beside its own writes (R46). -/
def State.answered (s : State) (evs : List Event) (st : Status) (e : Env) : State :=
  { s with trace := s.trace ++ evs, rsp := some st, responses := s.responses ++ [st], inflight := none, env := e }

/-- The frame with this register and parameter bytes and the checksum of the policy (R90, R91, R92). -/
def frameOf (p : Cksum) (reg paramHigh paramLow : Byte) : Frame :=
  ⟨0x57, 0x68, reg, paramHigh, paramLow, frameChecksum p 0x57 0x68 reg paramHigh paramLow⟩

/-- `i` run in `s` sends `f` as R160 says, where `t` is `s` with the writes the command makes before it sends: answered Ok,
it goes on at once, and after the steps the settle timer takes (none, if it expires at once) it has logged FRAME(f, Ok) and
SETTLE and answers OK; answered IoErr it logs FRAME(f, IoErr) alone and answers IO_ERROR (R181). -/
def SendsFrame (i : Instr) (s t : State) (f : Frame) : Prop :=
  ∀ e,
    (∀ n e', s.env.pollSink = (some .ok, e) → e.pollTimer = (n, e') →
      ∃ u, exec i s = .next u ∧ State.poll^[n] u = t.answered [.frame f .ok, .settle s.cfg.settleMs] .ok e') ∧
    (s.env.pollSink = (some .ioErr, e) → exec i s = .next (t.answered [.frame f .ioErr] .ioError e))

/-- `i` run in `s` drives the held line to `lvl` and records `level` only on an Ok answer (R205, R207). -/
def SetsLine (i : Instr) (s : State) (level : Level) (lvl : Phys) : Prop :=
  ∀ e,
    (s.env.pollSet = (some .ok, e) →
      exec i s = .next ({ s with line := .init level, lastPhys := some lvl }.answered [.gset lvl .ok] .ok e)) ∧
    (s.env.pollSet = (some .ioErr, e) → exec i s = .next (s.answered [.gset lvl .ioErr] .ioError e))

/-- `i` run in `s` acquires the line at `lvl` and records `level` only on an Ok answer (R202). -/
def AcquiresLine (i : Instr) (s : State) (level : Level) (lvl : Phys) : Prop :=
  ∀ e,
    (s.env.pollAcquire = (some .ok, e) →
      exec i s = .next ({ s with line := .init level, lastPhys := some lvl }.answered
        [.gacq s.cfg.chipId s.cfg.lineOffset lvl .ok] .ok e)) ∧
    (s.env.pollAcquire = (some .acqErr, e) →
      exec i s = .next (s.answered [.gacq s.cfg.chipId s.cfg.lineOffset lvl .acqErr] .acqError e))

/-- `i` run in `s` makes the request `q` and gets no answer yet: `t` is `s` with the writes made before the request (R281,
log 4, 5). -/
def HoldsRequest (i : Instr) (s t : State) (q : Request) (e : Env) : Prop :=
  exec i s = .next { t with inflight := some q, env := e }

/-- `i` run in `s` sends `f` and is not over yet: the sink has not answered (R281), or it answered Ok and the settle timer
has `left` more steps than the next to go (R45; log 4). -/
def WaitsAfterSending (i : Instr) (s t : State) (f : Frame) : Prop :=
  ∀ e,
    (s.env.pollSink = (none, e) → HoldsRequest i s t (.sinkWrite f) e) ∧
    (∀ left e', s.env.pollSink = (some .ok, e) → e.pollTimer = (left + 1, e') →
      HoldsRequest i s { t with trace := t.trace ++ [.frame f .ok] } (.settle left) e')

/-- `i` run in `s` ends at once with `st`: no event, no write but the response (R19). -/
def AnswersAtOnce (i : Instr) (s : State) (st : Status) : Prop :=
  exec i s = .next (s.answered [] st s.env)

end Sys2Proof.Machine
end

