-- ==== Sys2Proof/Certificates/Slice0/Obligations.lean ====
section
/-! DEFINITION. The statements about the block, from the numbered rules of spec/. -/

open Sys2Proof Sys2Proof.Machine

/-! ## Reset and the ports -/

/-- R260, row by row, for every set of construction parameters; `State.reset` is that state for the open parameters. The
settle timer is idle because `S.busy` is 0 (log 4). -/
def Obligations.ConstructionLeavesResetValues : Prop :=
  (∀ c : Config,
    (State.construct c).mask = 0x00 ∧ (State.construct c).lastMode = none ∧ (State.construct c).line = .uninit ∧
    (State.construct c).obs.level = none ∧ (State.construct c).devAl = c.devAlInit ∧
    (State.construct c).lineAl = c.lineActiveLow ∧ (State.construct c).lastPhys = none ∧
    (State.construct c).busy = false ∧ (State.construct c).rsp = none ∧ (State.construct c).trace = [] ∧
    (State.construct c).line.held = false ∧ (State.construct c).cfg = c) ∧
  State.reset = State.construct Config.construction

/-- R261, R263: `RST` is taken when `S.busy` is 0 and not before, and stays presented until then; a line in INIT is
released first. That the parameters
are kept and the old trace is put in `retired` is the model's choice (log 11); that a waiting `RST` lets the command in
flight go on is the model's reading (log 12). -/
def Obligations.RstReleasesThenConstructs : Prop :=
  ∀ (s : State) (rest : List HostAction), s.inbox = .rst :: rest →
    (s.busy = false → ∃ t, step s = .next t ∧
      t.mask = 0x00 ∧ t.lastMode = none ∧ t.line = .uninit ∧ t.devAl = s.cfg.devAlInit ∧ t.lastPhys = none ∧
      t.busy = false ∧ t.rsp = none ∧ t.responses = [] ∧ t.trace = [] ∧ t.cfg = s.cfg ∧
      t.inbox = rest ∧ t.env = s.env ∧ t.encReg = s.encReg ∧ t.encParam = s.encParam ∧
      ((∃ l, s.line = .init l) → t.retired = s.retired ++ [s.trace ++ [.grel]]) ∧
      ((∀ l, s.line ≠ .init l) → t.retired = s.retired ++ [s.trace])) ∧
    (s.busy = true → step s = .next s.poll ∧ s.poll.inbox = s.inbox)

/-- R50: every line of the observation port. OBS_LEVEL has no value outside INIT (log 7). -/
def Obligations.ObservationPortShowsState : Prop :=
  ∀ s : State,
    s.obs.mask = s.mask ∧
    (s.lastMode = none → s.obs.mode = 0b00) ∧ (s.lastMode = some .phaseAngle → s.obs.mode = 0b10) ∧
    (s.lastMode = some .switch → s.obs.mode = 0b11) ∧
    (s.line = .uninit → s.obs.lstate = 0) ∧ (∀ l, s.line = .init l → s.obs.lstate = 1) ∧
    (s.line = .released → s.obs.lstate = 2) ∧ s.obs.lstate ≠ 3 ∧
    (s.line = .init .active → s.obs.level = some 1) ∧ (s.line = .init .inactive → s.obs.level = some 0) ∧
    (s.obs.lstate ≠ 1 → s.obs.level = none) ∧
    s.obs.devAl = s.devAl ∧ s.obs.lineAl = s.lineAl ∧
    (s.lastPhys = none → s.obs.phys = 0b00) ∧ (s.lastPhys = some .low → s.obs.phys = 0b10) ∧
    (s.lastPhys = some .high → s.obs.phys = 0b11) ∧ s.obs.busy = s.busy

/-! ## The codec -/

/-- R130 in numbers: every byte of `encode`, for every register and parameter and both policies. -/
def Obligations.EncodeBytesInNumbers : Prop :=
  ∀ (p : Cksum) (r : Register) (param : Half),
    (encodeFrame p r param).header1.toNat = 0x57 ∧ (encodeFrame p r param).header2.toNat = 0x68 ∧
    (encodeFrame p r param).register = r.id ∧
    ((r = .reset ∨ r = .baudrate) → (encodeFrame p r param).paramHigh.toNat = param.toNat / 256) ∧
    (¬ (r = .reset ∨ r = .baudrate) → (encodeFrame p r param).paramHigh = 0x00) ∧
    (encodeFrame p r param).paramLow.toNat = param.toNat % 256 ∧
    (encodeFrame p r param).checksum =
      (match p with
       | .xor => 0x57 ^^^ 0x68 ^^^ (encodeFrame p r param).register ^^^ (encodeFrame p r param).paramHigh ^^^
           (encodeFrame p r param).paramLow
       | .sum => 0x57 + 0x68 + (encodeFrame p r param).register + (encodeFrame p r param).paramHigh +
           (encodeFrame p r param).paramLow)

/-- R133: with the constant header bytes the checksum reduces; equal parameter bytes cancel under XOR-fold; and under the
sum Frequency 60 has checksum 0. -/
def Obligations.ChecksumReductions : Prop :=
  (∀ b2 b3 b4 : Byte, frameChecksum .xor 0x57 0x68 b2 b3 b4 = 0x3F ^^^ b2 ^^^ b3 ^^^ b4) ∧
  (∀ b2 b3 b4 : Byte,
    (frameChecksum .sum 0x57 0x68 b2 b3 b4).toNat = (0xBF + b2.toNat + b3.toNat + b4.toNat) % 256) ∧
  (∀ b2 b : Byte, frameChecksum .xor 0x57 0x68 b2 b b = frameChecksum .xor 0x57 0x68 b2 0 0) ∧
  (encodeFrame .xor .reset 0x0000).checksum = 0x39 ∧ (encodeFrame .xor .reset 0xFFFF).checksum = 0x39 ∧
  (encodeFrame .sum .frequency 60).checksum = 0x00

/-- R47, R131: ENC_OK and ENC_FRAME for every input, whatever else the state holds. While ENC_OK = 0 there is no frame
(log 16). -/
def Obligations.CodecPortAnswersEveryInput : Prop :=
  ∀ s : State,
    (s.encOk = true ↔
      (1 ≤ s.encReg.toNat ∧ s.encReg.toNat ≤ 7 ∧ (s.encReg.toNat ≤ 5 → s.encParam.toNat ≤ 0xFF))) ∧
    (s.encOk = false → s.encFrame = none) ∧
    (s.encOk = true → ∃ r, Register.ofId s.encReg = some r ∧
      s.encFrame = some (encodeFrame s.cfg.cksum r s.encParam).toBits)

/-- R91, R92, R95, R98: every frame the codec encodes is well-formed under the policy, and names its register. -/
def Obligations.EncodedFramesAreWellFormed : Prop :=
  ∀ (p : Cksum) (reg : Byte) (param : Half) (f : Frame),
    codecEncode p reg param = some f → f.wellFormed p = true ∧ f.register = reg

/-- R47, R71, R72, R74, R94: the frame word packs F[0] highest and F[5] lowest, the frame's bytes go to the sink F[0] first
(the spec's own derivation, R72), and of a 16-bit parameter the high byte comes first. -/
def Obligations.FrameWordIsBigEndianByOffset : Prop :=
  (∀ f : Frame, f.toBits.toNat =
    f.header1.toNat * 2 ^ 40 + f.header2.toNat * 2 ^ 32 + f.register.toNat * 2 ^ 24 + f.paramHigh.toNat * 2 ^ 16 +
      f.paramLow.toNat * 2 ^ 8 + f.checksum.toNat) ∧
  (∀ w : FrameWord, (Frame.ofBits w).toBits = w) ∧
  (∀ f : Frame, f.toBytes = [f.header1, f.header2, f.register, f.paramHigh, f.paramLow, f.checksum] ∧
    Frame.ofBytes f.toBytes = some f) ∧
  (∀ (p : Cksum) (r : Register) (param : Half), r.wide = true →
    (encodeFrame p r param).paramHigh.toNat * 256 + (encodeFrame p r param).paramLow.toNat = param.toNat)

/-- R134 to R138, R47: a single-byte frame row drives the codec port, changes nothing else, and the port answers the
row's frame with the policy's checksum. That the word's own checksum byte is no input is the model's choice (log 1). -/
def Obligations.SingleByteFrameRowsEncode : Prop :=
  ∀ (value ck : Byte) (s : State),
    (∃ t, exec (.frmMode value ck) s = .next t ∧ t = { s with encReg := 0x01, encParam := value.setWidth 16 } ∧
      t.encOk = true ∧ t.encFrame = some (frameOf s.cfg.cksum 0x01 0x00 value).toBits) ∧
    (∃ t, exec (.frmChannelEnable value ck) s = .next t ∧
      t = { s with encReg := 0x02, encParam := value.setWidth 16 } ∧
      t.encOk = true ∧ t.encFrame = some (frameOf s.cfg.cksum 0x02 0x00 value).toBits) ∧
    (∃ t, exec (.frmAngle1 value ck) s = .next t ∧ t = { s with encReg := 0x03, encParam := value.setWidth 16 } ∧
      t.encOk = true ∧ t.encFrame = some (frameOf s.cfg.cksum 0x03 0x00 value).toBits) ∧
    (∃ t, exec (.frmAngle2 value ck) s = .next t ∧ t = { s with encReg := 0x04, encParam := value.setWidth 16 } ∧
      t.encOk = true ∧ t.encFrame = some (frameOf s.cfg.cksum 0x04 0x00 value).toBits) ∧
    (∃ t, exec (.frmFrequency value ck) s = .next t ∧ t = { s with encReg := 0x05, encParam := value.setWidth 16 } ∧
      t.encOk = true ∧ t.encFrame = some (frameOf s.cfg.cksum 0x05 0x00 value).toBits)

/-- R139, R140, R47: the two 16-bit frame rows, likewise (log 1). -/
def Obligations.WideFrameRowsEncode : Prop :=
  ∀ (param : Half) (ck : Byte) (s : State),
    (∃ t, exec (.frmReset param ck) s = .next t ∧ t = { s with encReg := 0x06, encParam := param } ∧
      t.encOk = true ∧
      t.encFrame = some (frameOf s.cfg.cksum 0x06 (param.extractLsb' 8 8) (param.extractLsb' 0 8)).toBits) ∧
    (∃ t, exec (.frmBaudrate param ck) s = .next t ∧ t = { s with encReg := 0x07, encParam := param } ∧
      t.encOk = true ∧
      t.encFrame = some (frameOf s.cfg.cksum 0x07 (param.extractLsb' 8 8) (param.extractLsb' 0 8)).toBits)

/-! ## The Device Session -/

/-- R161: SETMODE. A word it decodes from, the two refusals by value, and the frame with the mode committed first. That
Switch is sent as 1 is the spec's own derivation (R134; log 18). -/
def Obligations.SetmodeSendsModeFrame : Prop :=
  ∀ (ch : BitVec 4) (data : BitVec 24) (s : State),
    decode (.cmd32 (cmdWord 0x1 ch data)) = .ok (.setmode ch data) ∧
    ((ch ≠ 0 ∨ 1 < data.toNat) → AnswersAtOnce (.setmode ch data) s .invalidParam) ∧
    (ch = 0 → data = 0 → SendsFrame (.setmode ch data) s { s with lastMode := some .phaseAngle }
      (frameOf s.cfg.cksum 0x01 0x00 0x00)) ∧
    (ch = 0 → data = 1 → SendsFrame (.setmode ch data) s { s with lastMode := some .switch }
      (frameOf s.cfg.cksum 0x01 0x00 0x01))

/-- R163, R183: ENCH. The full new mask is sent, committed before the write and kept whatever the sink answers. -/
def Obligations.EnchSendsFullMask : Prop :=
  ∀ (ch : BitVec 4) (data : BitVec 24) (s : State),
    decode (.cmd32 (cmdWord 0x2 ch data)) = .ok (.ench ch data) ∧
    ((data ≠ 0 ∨ (ch ≠ 1 ∧ ch ≠ 2)) → AnswersAtOnce (.ench ch data) s .invalidParam) ∧
    (data = 0 → ch = 1 → SendsFrame (.ench ch data) s { s with mask := s.mask ||| 0b01 }
      (frameOf s.cfg.cksum 0x02 0x00 (s.mask ||| 0b01))) ∧
    (data = 0 → ch = 2 → SendsFrame (.ench ch data) s { s with mask := s.mask ||| 0b10 }
      (frameOf s.cfg.cksum 0x02 0x00 (s.mask ||| 0b10))) ∧
    (s.mask &&& 0xFC = 0 → (s.mask ||| 0b01) &&& 0xFC = 0 ∧ (s.mask ||| 0b10) &&& 0xFC = 0)

/-- R166, R183: DISCH, likewise with the channel's bit cleared. -/
def Obligations.DischSendsFullMask : Prop :=
  ∀ (ch : BitVec 4) (data : BitVec 24) (s : State),
    decode (.cmd32 (cmdWord 0x3 ch data)) = .ok (.disch ch data) ∧
    ((data ≠ 0 ∨ (ch ≠ 1 ∧ ch ≠ 2)) → AnswersAtOnce (.disch ch data) s .invalidParam) ∧
    (data = 0 → ch = 1 → SendsFrame (.disch ch data) s { s with mask := s.mask &&& 0xFE }
      (frameOf s.cfg.cksum 0x02 0x00 (s.mask &&& 0xFE))) ∧
    (data = 0 → ch = 2 → SendsFrame (.disch ch data) s { s with mask := s.mask &&& 0xFD }
      (frameOf s.cfg.cksum 0x02 0x00 (s.mask &&& 0xFD)))

/-- R169, R171: SETANG. No state of the session is written. -/
def Obligations.SetangSendsAngleFrame : Prop :=
  ∀ (ch : BitVec 4) (data : BitVec 24) (s : State),
    decode (.cmd32 (cmdWord 0x4 ch data)) = .ok (.setang ch data) ∧
    (((ch ≠ 1 ∧ ch ≠ 2) ∨ 179 < data.toNat) → AnswersAtOnce (.setang ch data) s .invalidParam) ∧
    (ch = 1 → data.toNat ≤ 179 → SendsFrame (.setang ch data) s s
      (frameOf s.cfg.cksum 0x03 0x00 (BitVec.ofNat 8 data.toNat))) ∧
    (ch = 2 → data.toNat ≤ 179 → SendsFrame (.setang ch data) s s
      (frameOf s.cfg.cksum 0x04 0x00 (BitVec.ofNat 8 data.toNat)))

/-- R172: SETFREQ. 50 and 60 are sent, any other value is a no-op that answers OK. That the frame carries the value itself,
0x32 or 0x3C, is the spec's own derivation (R95; log 19). -/
def Obligations.SetfreqSendsOrIgnores : Prop :=
  ∀ (ch : BitVec 4) (data : BitVec 24) (s : State),
    decode (.cmd32 (cmdWord 0x5 ch data)) = .ok (.setfreq ch data) ∧
    (ch ≠ 0 → AnswersAtOnce (.setfreq ch data) s .invalidParam) ∧
    (ch = 0 → data = 50 → SendsFrame (.setfreq ch data) s s (frameOf s.cfg.cksum 0x05 0x00 0x32)) ∧
    (ch = 0 → data = 60 → SendsFrame (.setfreq ch data) s s (frameOf s.cfg.cksum 0x05 0x00 0x3C)) ∧
    (ch = 0 → data ≠ 50 → data ≠ 60 → AnswersAtOnce (.setfreq ch data) s .ok)

/-- R175, R176: RESET sends the delay big-endian and writes neither the mask nor the last mode. -/
def Obligations.ResetSendsDelayAndKeepsState : Prop :=
  ∀ (ch : BitVec 4) (data : BitVec 24) (s : State),
    decode (.cmd32 (cmdWord 0x6 ch data)) = .ok (.reset ch data) ∧
    ((ch ≠ 0 ∨ 0xFFFF < data.toNat) → AnswersAtOnce (.reset ch data) s .invalidParam) ∧
    (ch = 0 → data.toNat ≤ 0xFFFF → SendsFrame (.reset ch data) s s
      (frameOf s.cfg.cksum 0x06 (BitVec.ofNat 8 (data.toNat / 256)) (BitVec.ofNat 8 (data.toNat % 256))))

/-- R178, R179: SETBAUD sends the code the table gives the rate, and ignores a rate outside the table. -/
def Obligations.SetbaudSendsTableCode : Prop :=
  ∀ (ch : BitVec 4) (data : BitVec 24) (s : State),
    decode (.cmd32 (cmdWord 0x7 ch data)) = .ok (.setbaud ch data) ∧
    (ch ≠ 0 → AnswersAtOnce (.setbaud ch data) s .invalidParam) ∧
    (ch = 0 → s.cfg.baudTable.lookup data.toNat = none → AnswersAtOnce (.setbaud ch data) s .ok) ∧
    (∀ c : Half, ch = 0 → s.cfg.baudTable.lookup data.toNat = some c → SendsFrame (.setbaud ch data) s s
      (frameOf s.cfg.cksum 0x07 (BitVec.ofNat 8 (c.toNat / 256)) (BitVec.ofNat 8 (c.toNat % 256))))

/-- R165: after ENCH 1, ENCH 2 sends a frame whose F[4] has both bits, from any mask that is in range, and in any state in
which the mask is still the one ENCH 1 left. -/
def Obligations.EnablingAccumulates : Prop :=
  ∀ s : State, s.MaskInRange → ∃ t, exec (.ench 1 0) s = .next t ∧
    ∀ (u : State) (e : Env), u.mask = t.mask → u.env.pollSink = (some .ok, e) →
      ∃ v f rest, exec (.ench 2 0) u = .next v ∧ v.trace = u.trace ++ .frame f .ok :: rest ∧
        f.register = 0x02 ∧ f.paramLow = 0x03 ∧ v.mask = 0x03

/-- R167: DISCH 1 after both channels are enabled leaves and sends 0b10. -/
def Obligations.DisablingKeepsOtherChannel : Prop :=
  ∀ (s : State) (e : Env), s.mask = 0x03 → s.env.pollSink = (some .ok, e) →
    ∃ t f rest, exec (.disch 1 0) s = .next t ∧ t.trace = s.trace ++ .frame f .ok :: rest ∧
      f.register = 0x02 ∧ f.paramLow = 0b10 ∧ t.mask = 0b10

/-- R78, R182: whatever it is given, a session command has logged nothing, or exactly one frame with its settle wait (or with
the timer of that wait still running, log 4), or one failed frame, and no GPIO event. -/
def Obligations.SessionCommandSendsAtMostOneFrame : Prop :=
  ∀ (i : Instr) (s : State), i.isSession = true →
    ∃ t evs, exec i s = .next t ∧ t.trace = s.trace ++ evs ∧
      (evs = [] ∨ (∃ f, evs = [.frame f .ok, .settle s.cfg.settleMs]) ∨
       (∃ f left, evs = [.frame f .ok] ∧ t.inflight = some (.settle left)) ∨ (∃ f, evs = [.frame f .ioErr]))

/-! ## The Output Line -/

/-- R202, R200: LINIT in every line state; ACQ_ERROR without a capability call unless UNINIT. The initial level is stated
by AcquireLevelUsesLineAttribute. -/
def Obligations.LinitAcquiresOnlyFreshLine : Prop :=
  ∀ (ch : BitVec 4) (data : BitVec 24) (s : State),
    decode (.cmd32 (cmdWord 0x8 ch data)) = .ok (.linit ch data) ∧
    ((ch ≠ 0 ∨ 1 < data.toNat) → AnswersAtOnce (.linit ch data) s .invalidParam) ∧
    (ch = 0 → data.toNat ≤ 1 → s.line ≠ .uninit → AnswersAtOnce (.linit ch data) s .acqError) ∧
    (ch = 0 → data = 0 → s.line = .uninit → AcquiresLine (.linit ch data) s .inactive
      (if s.lineAl then .high else .low)) ∧
    (ch = 0 → data = 1 → s.line = .uninit → AcquiresLine (.linit ch data) s .active
      (if s.lineAl then .low else .high))

/-- R203: the initial level is `initial_level ^ line_active_low`, and device polarity does not enter it. -/
def Obligations.AcquireLevelUsesLineAttribute : Prop :=
  ∀ (s : State) (d : Bool) (e : Env), s.line = .uninit → s.env.pollAcquire = (some .ok, e) →
    (∃ t, exec (.linit 0 0) { s with devAl := d } = .next t ∧
      t.trace = s.trace ++ [.gacq s.cfg.chipId s.cfg.lineOffset (if s.cfg.lineActiveLow then .high else .low) .ok] ∧
      t.lastPhys = some (if s.cfg.lineActiveLow then .high else .low)) ∧
    (∃ t, exec (.linit 0 1) { s with devAl := d } = .next t ∧
      t.trace = s.trace ++ [.gacq s.cfg.chipId s.cfg.lineOffset (if s.cfg.lineActiveLow then .low else .high) .ok] ∧
      t.lastPhys = some (if s.cfg.lineActiveLow then .low else .high))

/-- R205, R206, R207, R208: LON and LOFF. Outside INIT they answer NOT_INIT without a capability call; in INIT the level is
that of the table of R206, which `line_al` does not enter. -/
def Obligations.LonAndLoffDriveThroughDevicePolarity : Prop :=
  ∀ (ch : BitVec 4) (data : BitVec 24) (s : State),
    (decode (.cmd32 (cmdWord 0x9 ch data)) = .ok (.lon ch data) ∧
     decode (.cmd32 (cmdWord 0xA ch data)) = .ok (.loff ch data)) ∧
    ((ch ≠ 0 ∨ data ≠ 0) →
      AnswersAtOnce (.lon ch data) s .invalidParam ∧ AnswersAtOnce (.loff ch data) s .invalidParam) ∧
    (ch = 0 → data = 0 → s.line.held = false →
      AnswersAtOnce (.lon ch data) s .notInit ∧ AnswersAtOnce (.loff ch data) s .notInit) ∧
    (ch = 0 → data = 0 → s.line.held = true →
      SetsLine (.lon ch data) s .active (if s.devAl then .low else .high) ∧
      SetsLine (.loff ch data) s .inactive (if s.devAl then .high else .low))

/-- R209, R210: LSETPOL in every line state writes the polarity alone and drives nothing. -/
def Obligations.LsetpolWritesPolarityOnly : Prop :=
  ∀ (ch : BitVec 4) (data : BitVec 24) (s : State),
    decode (.cmd32 (cmdWord 0xB ch data)) = .ok (.lsetpol ch data) ∧
    ((ch ≠ 0 ∨ 1 < data.toNat) → AnswersAtOnce (.lsetpol ch data) s .invalidParam) ∧
    (ch = 0 → data = 0 → exec (.lsetpol ch data) s = .next ({ s with devAl := false }.answered [] .ok s.env)) ∧
    (ch = 0 → data = 1 → exec (.lsetpol ch data) s = .next ({ s with devAl := true }.answered [] .ok s.env))

/-- R104, R211, R213: LREL with any CH and DATA answers OK and leaves the line RELEASED; only from INIT it issues the
release; the last level driven is kept. -/
def Obligations.LrelReleasesAndNeverFails : Prop :=
  ∀ (ch : BitVec 4) (data : BitVec 24) (s : State),
    decode (.cmd32 (cmdWord 0xC ch data)) = .ok (.lrel ch data) ∧
    (s.line.held = true →
      exec (.lrel ch data) s = .next ({ s with line := .released }.answered [.grel] .ok s.env)) ∧
    (s.line.held = false →
      exec (.lrel ch data) s = .next ({ s with line := .released }.answered [] .ok s.env))

/-- R212: LREL twice. The second is a no-op: it logs nothing and answers OK. -/
def Obligations.LrelTwiceIsIdempotent : Prop :=
  ∀ (ch ch' : BitVec 4) (data data' : BitVec 24) (s : State),
    ∃ t u, exec (.lrel ch data) s = .next t ∧ exec (.lrel ch' data') t = .next u ∧
      u = { t with rsp := some .ok, responses := t.responses ++ [.ok] }

/-- R200: RELEASED is terminal. From a state whose bookkeeping agrees with its trace, every step leaves the line RELEASED,
but for one that takes an `RST` (R261: only with `S.busy` = 0), which constructs a new instance. -/
def Obligations.ReleasedIsTerminal : Prop :=
  ∀ s t : State, s.LineAgrees → s.line = .released → step s = .next t →
    t.line = .released ∨ (s.busy = false ∧ ∃ rest, s.inbox = .rst :: rest)

/-! ## Statuses, the command port and the step -/

/-- R234, R19: INVALID_PARAM with no event and no state change exactly for the operands a command does not admit. -/
def Obligations.RefusedByValueExactly : Prop :=
  ∀ (p : Cksum) (i : Instr) (s : State), i.isCommand = true →
    (i.wf p = false ↔ AnswersAtOnce i s .invalidParam)

/-- R238: the first check that fails, in the rule's order, decides the one status, and nothing else happens; where no check
fails the status is the external answer's, or OK. -/
def Obligations.FirstFailingCheckDecides : Prop :=
  ∀ (i : Instr) (s : State), i.isCommand = true →
    (∀ st, firstFailingCheck s i = some st → AnswersAtOnce i s st) ∧
    (firstFailingCheck s i = none → ∃ t, exec i s = .next t ∧
      ((t.busy = true ∧ t.responses = s.responses) ∨
       ∃ st, (st = .ok ∨ st = .ioError ∨ st = .acqError) ∧ t.busy = false ∧ t.responses = s.responses ++ [st]))

/-- R46, R230: a command gives exactly one response, stored in `S.rsp`, and is then over; or it is still in flight and has
given none, having logged nothing, or the one frame whose settle timer runs. The codes are the table's, and 6 and 7 are never presented. -/
def Obligations.OneResponsePerCommand : Prop :=
  (∀ (i : Instr) (s : State), i.isCommand = true → ∃ t, exec i s = .next t ∧
    ((t.busy = false ∧ ∃ st, t.rsp = some st ∧ t.rspStatus = some st.code ∧ t.responses = s.responses ++ [st]) ∨
     (t.busy = true ∧ t.rsp = s.rsp ∧ t.responses = s.responses ∧
      (t.trace = s.trace ∨ ∃ f left, t.trace = s.trace ++ [.frame f .ok] ∧ t.inflight = some (.settle left))))) ∧
  Status.ok.code = 0 ∧ Status.ioError.code = 1 ∧ Status.acqError.code = 2 ∧ Status.notInit.code = 3 ∧
  Status.invalidParam.code = 4 ∧ Status.illegalCmd.code = 5 ∧
  ∀ s : State, s.rspStatus ≠ some 6 ∧ s.rspStatus ≠ some 7

/-- R103, R236: OP 0x0 and 0xD to 0xF decode to nothing, every other OP decodes, and the block answers an illegal one with
ILLEGAL_CMD, no event and no state change. -/
def Obligations.IllegalOpcodesAnswerIllegalCmd : Prop :=
  ∀ w : CmdWord,
    (decode (.cmd32 w) = .error .illegalOpcode ↔ (w.toNat / 2 ^ 28 = 0x0 ∨ 0xD ≤ w.toNat / 2 ^ 28)) ∧
    (¬ (w.toNat / 2 ^ 28 = 0x0 ∨ 0xD ≤ w.toNat / 2 ^ 28) → ∃ i, decode (.cmd32 w) = .ok i) ∧
    (∀ (s : State) (rest : List HostAction), (w.toNat / 2 ^ 28 = 0x0 ∨ 0xD ≤ w.toNat / 2 ^ 28) →
      s.inbox = .word (.cmd32 w) :: rest → s.busy = false →
      step s = .next ({ s with inbox := rest }.answered [] .illegalCmd s.env))

/-- R46, R102: with `S.busy` = 0 a step takes the command word presented and runs the instruction it decodes to. -/
def Obligations.StepRunsPresentedCommand : Prop :=
  ∀ (s : State) (w : CmdWord) (rest : List HostAction) (i : Instr),
    s.busy = false → s.inbox = .word (.cmd32 w) :: rest → decode (.cmd32 w) = .ok i →
    step s = exec i { s with inbox := rest }

/-- R47: the codec port "does not depend on `S.busy`": a frame word presented is encoded at once, with or without a command
in flight. -/
def Obligations.StepRunsPresentedFrame : Prop :=
  ∀ (s : State) (w : FrameWord) (rest : List HostAction) (i : Instr),
    s.inbox = .word (.frame48 w) :: rest → decode (.frame48 w) = .ok i →
    step s = exec i { s with inbox := rest }

/-- R46: a command presented while `S.busy` = 1 is not accepted: it stays presented, and the step is that of the agent the
command in flight waits on. -/
def Obligations.BusyHoldsNextCommand : Prop :=
  ∀ (s : State) (w : CmdWord) (rest : List HostAction),
    s.busy = true → s.inbox = .word (.cmd32 w) :: rest → step s = .next s.poll ∧ s.poll.inbox = s.inbox

/-- R262, R281: with nothing presented the block waits. Nothing in flight, nothing changes and CMD_READY = 1; a request
that is not answered leaves the command in flight with `S.busy` = 1, and the step changes nothing of the block. -/
def Obligations.BlockWaitsForHostOrAgent : Prop :=
  ∀ s : State, s.inbox = [] →
    (s.busy = false → step s = .next s ∧ s.cmdReady = true) ∧
    (∀ f e, s.inflight = some (.sinkWrite f) → s.env.pollSink = (none, e) → step s = .next { s with env := e }) ∧
    (∀ l p e, s.inflight = some (.gpioAcquire l p) → s.env.pollAcquire = (none, e) →
      step s = .next { s with env := e }) ∧
    (∀ l p e, s.inflight = some (.gpioSet l p) → s.env.pollSet = (none, e) → step s = .next { s with env := e })

/-- R45, R281: a command whose request gets no answer yet, or whose settle timer still runs, is in flight, with `S.busy` = 1
and no response. That the mask and the last mode already show the new value then is the model's reading (log 5); the steps
of the timer are its form (log 4); the values for Switch and the frequencies are the spec's derivations (log 18, 19). -/
def Obligations.UnansweredCommandStaysInFlight : Prop :=
  ∀ s : State,
    WaitsAfterSending (.setmode 0 0) s { s with lastMode := some .phaseAngle } (frameOf s.cfg.cksum 0x01 0x00 0x00) ∧
    WaitsAfterSending (.setmode 0 1) s { s with lastMode := some .switch } (frameOf s.cfg.cksum 0x01 0x00 0x01) ∧
    WaitsAfterSending (.ench 1 0) s { s with mask := s.mask ||| 0b01 }
      (frameOf s.cfg.cksum 0x02 0x00 (s.mask ||| 0b01)) ∧
    WaitsAfterSending (.ench 2 0) s { s with mask := s.mask ||| 0b10 }
      (frameOf s.cfg.cksum 0x02 0x00 (s.mask ||| 0b10)) ∧
    WaitsAfterSending (.disch 1 0) s { s with mask := s.mask &&& 0xFE }
      (frameOf s.cfg.cksum 0x02 0x00 (s.mask &&& 0xFE)) ∧
    WaitsAfterSending (.disch 2 0) s { s with mask := s.mask &&& 0xFD }
      (frameOf s.cfg.cksum 0x02 0x00 (s.mask &&& 0xFD)) ∧
    (∀ data : BitVec 24, data.toNat ≤ 179 →
      WaitsAfterSending (.setang 1 data) s s (frameOf s.cfg.cksum 0x03 0x00 (BitVec.ofNat 8 data.toNat)) ∧
      WaitsAfterSending (.setang 2 data) s s (frameOf s.cfg.cksum 0x04 0x00 (BitVec.ofNat 8 data.toNat))) ∧
    WaitsAfterSending (.setfreq 0 50) s s (frameOf s.cfg.cksum 0x05 0x00 0x32) ∧
    WaitsAfterSending (.setfreq 0 60) s s (frameOf s.cfg.cksum 0x05 0x00 0x3C) ∧
    (∀ data : BitVec 24, data.toNat ≤ 0xFFFF → WaitsAfterSending (.reset 0 data) s s
      (frameOf s.cfg.cksum 0x06 (BitVec.ofNat 8 (data.toNat / 256)) (BitVec.ofNat 8 (data.toNat % 256)))) ∧
    (∀ (data : BitVec 24) (c : Half), s.cfg.baudTable.lookup data.toNat = some c → WaitsAfterSending (.setbaud 0 data) s s
      (frameOf s.cfg.cksum 0x07 (BitVec.ofNat 8 (c.toNat / 256)) (BitVec.ofNat 8 (c.toNat % 256)))) ∧
    (∀ e, s.env.pollAcquire = (none, e) → s.line = .uninit →
      HoldsRequest (.linit 0 0) s s (.gpioAcquire .inactive (if s.lineAl then .high else .low)) e ∧
      HoldsRequest (.linit 0 1) s s (.gpioAcquire .active (if s.lineAl then .low else .high)) e) ∧
    (∀ e, s.env.pollSet = (none, e) → s.line.held = true →
      HoldsRequest (.lon 0 0) s s (.gpioSet .active (if s.devAl then .low else .high)) e ∧
      HoldsRequest (.loff 0 0) s s (.gpioSet .inactive (if s.devAl then .high else .low)) e)

/-- R7, R45, R160, R181, R202, R205, R207: with nothing presented, or with a command or an `RST` waiting, the step is that of
the agent the command in flight waits on; its answer, when it comes, takes the command on as it would have at once, and a
settle wait always ends (R281), with SETTLE and OK. -/
def Obligations.LateAnswerCompletesCommand : Prop :=
  ∀ s : State,
    ((s.inbox = [] ∨ (s.busy = true ∧
        ((∃ w rest, s.inbox = .word (.cmd32 w) :: rest) ∨ ∃ rest, s.inbox = .rst :: rest))) → step s = .next s.poll) ∧
    (∀ f e, s.inflight = some (.sinkWrite f) →
      (∀ e', s.env.pollSink = (some .ok, e) → e.pollTimer = (0, e') →
        s.poll = s.answered [.frame f .ok, .settle s.cfg.settleMs] .ok e') ∧
      (∀ left e', s.env.pollSink = (some .ok, e) → e.pollTimer = (left + 1, e') →
        s.poll = { s with trace := s.trace ++ [.frame f .ok], inflight := some (.settle left), env := e' }) ∧
      (s.env.pollSink = (some .ioErr, e) → s.poll = s.answered [.frame f .ioErr] .ioError e)) ∧
    (∀ l p e, s.inflight = some (.gpioAcquire l p) →
      (s.env.pollAcquire = (some .ok, e) → s.poll = { s with line := .init l, lastPhys := some p }.answered
        [.gacq s.cfg.chipId s.cfg.lineOffset p .ok] .ok e) ∧
      (s.env.pollAcquire = (some .acqErr, e) → s.poll = s.answered
        [.gacq s.cfg.chipId s.cfg.lineOffset p .acqErr] .acqError e)) ∧
    (∀ l p e, s.inflight = some (.gpioSet l p) →
      (s.env.pollSet = (some .ok, e) → s.poll = { s with line := .init l, lastPhys := some p }.answered
        [.gset p .ok] .ok e) ∧
      (s.env.pollSet = (some .ioErr, e) → s.poll = s.answered [.gset p .ioErr] .ioError e)) ∧
    (∀ left, s.inflight = some (.settle left) →
      State.poll^[left + 1] s = s.answered [.settle s.cfg.settleMs] .ok s.env ∧
      ∀ k, k ≤ left → (State.poll^[k] s).busy = true ∧ (State.poll^[k] s).trace = s.trace)

/-- R47: the host drives ENC_REG and ENC_PARAM at any time; nothing else changes, and a response is never touched (R237). -/
def Obligations.CodecInputsAreTakenAnytime : Prop :=
  ∀ (s : State) (reg : Byte) (param : Half) (rest : List HostAction), s.inbox = .codec reg param :: rest →
    step s = .next { s with inbox := rest, encReg := reg, encParam := param }

/-- The model stops only on a 48-bit word that is no frame of the table (R97, R131; log 15), and refuses nothing. -/
def Obligations.StepStopsOnlyOnNonFrames : Prop :=
  ∀ s : State, (∀ r, step s ≠ .refused r) ∧
    ∀ r, step s = .fault r ↔ ∃ w rest x, s.inbox = .word (.frame48 w) :: rest ∧ decode (.frame48 w) = .error x

/-! ## Encodings -/

/-- R90, R93, R100, R101: for every instruction and every value of its fields, decoding the encoder's word gives the
instruction back. -/
def Obligations.DecodeOfEncode : Prop := ∀ i : Instr, decode (encode i) = .ok i

/-- Each word has one reading: what decodes to an instruction is the word the encoder gives it. -/
def Obligations.EncodeOfDecode : Prop := ∀ (w : InstrWord) (i : Instr), decode w = .ok i → encode i = w

/-- The decoder agrees with the match and mask of every row of spec/opcode_table.json: a word is of an instruction's row
exactly when it decodes to an instruction of that row. -/
def Obligations.DecoderAgreesWithOpcodeTable : Prop :=
  ∀ (w : InstrWord) (i : Instr), w.ofRow (tableRow i) ↔ ∃ j, decode w = .ok j ∧ tableRow j = tableRow i

/-- R91, R95, R97, R98: a frame word decodes exactly when its header, register id and high parameter byte are those of a
frame; the checksum byte is not looked at (log 1). -/
def Obligations.FrameWordsThatDecode : Prop :=
  ∀ w : FrameWord, (∃ i, decode (.frame48 w) = .ok i) ↔
    (w.toNat / 2 ^ 40 = 0x57 ∧ w.toNat / 2 ^ 32 % 256 = 0x68 ∧ 1 ≤ w.toNat / 2 ^ 24 % 256 ∧
     w.toNat / 2 ^ 24 % 256 ≤ 7 ∧ (w.toNat / 2 ^ 24 % 256 ≤ 5 → w.toNat / 2 ^ 16 % 256 = 0))

/-- R106, R107: words written out from the syntax table, through the assembler and the decoder. -/
def Obligations.SampleWordsDecode : Prop :=
  decodeTableWord 32 0x10000001 = some (.setmode 0 1) ∧ decodeTableWord 32 0x4100005A = some (.setang 1 90) ∧
  decodeTableWord 32 0x7001C200 = some (.setbaud 0 115200) ∧ decodeTableWord 32 0xCFFFFFFF = some (.lrel 15 0xFFFFFF) ∧
  decodeTableWord 48 0x576803005A66 = some (.frmAngle1 0x5A 0x66) ∧
  decodeTableWord 48 0x57680612341F = some (.frmReset 0x1234 0x1F) ∧
  decodeTableWord 32 0x00000000 = none ∧ decodeTableWord 32 0xD0000000 = none

/-- R106, R107: every operand that fits its field is passed, in its field, and every other one rejected; the lines without
operands, and the pseudo-instructions, are the words of the table. That setmode, linit and lsetpol take any number that fits
is the model's reading (log 23). -/
def Obligations.AssemblerPassesWhatFits : Prop :=
  (∀ ch data : Nat, ch ≤ 15 → data ≤ 0xFFFFFF →
    ∃ w : CmdWord, (Asm.setang ch data).words = .ok [.cmd32 w] ∧ w.toNat = 0x40000000 + ch * 2 ^ 24 + data) ∧
  (∀ ch : Nat, ch ≤ 15 →
    (∃ w : CmdWord, (Asm.ench ch).words = .ok [.cmd32 w] ∧ w.toNat = 0x20000000 + ch * 2 ^ 24) ∧
    (∃ w : CmdWord, (Asm.disch ch).words = .ok [.cmd32 w] ∧ w.toNat = 0x30000000 + ch * 2 ^ 24)) ∧
  (∀ data : Nat, data ≤ 0xFFFFFF →
    (∃ w : CmdWord, (Asm.setmode data).words = .ok [.cmd32 w] ∧ w.toNat = 0x10000000 + data) ∧
    (∃ w : CmdWord, (Asm.setfreq data).words = .ok [.cmd32 w] ∧ w.toNat = 0x50000000 + data) ∧
    (∃ w : CmdWord, (Asm.reset data).words = .ok [.cmd32 w] ∧ w.toNat = 0x60000000 + data) ∧
    (∃ w : CmdWord, (Asm.setbaud data).words = .ok [.cmd32 w] ∧ w.toNat = 0x70000000 + data) ∧
    (∃ w : CmdWord, (Asm.linit data).words = .ok [.cmd32 w] ∧ w.toNat = 0x80000000 + data) ∧
    (∃ w : CmdWord, (Asm.lsetpol data).words = .ok [.cmd32 w] ∧ w.toNat = 0xB0000000 + data)) ∧
  (∀ ch data : Nat, 15 < ch → (∃ x, (Asm.setang ch data).words = .error x) ∧ (∃ x, (Asm.ench ch).words = .error x) ∧
    (∃ x, (Asm.disch ch).words = .error x)) ∧
  (∀ ch data : Nat, 0xFFFFFF < data → (∃ x, (Asm.setang ch data).words = .error x) ∧
    (∃ x, (Asm.setmode data).words = .error x) ∧ (∃ x, (Asm.setfreq data).words = .error x) ∧
    (∃ x, (Asm.reset data).words = .error x) ∧ (∃ x, (Asm.setbaud data).words = .error x) ∧
    (∃ x, (Asm.linit data).words = .error x) ∧ (∃ x, (Asm.lsetpol data).words = .error x)) ∧
  (Asm.lon.words = .ok [.cmd32 0x90000000] ∧ Asm.loff.words = .ok [.cmd32 0xA0000000] ∧
   Asm.lrel.words = .ok [.cmd32 0xC0000000]) ∧
  (Asm.on1.words = .ok [.cmd32 0x10000001, .cmd32 0x21000000] ∧
   Asm.off1.words = .ok [.cmd32 0x10000001, .cmd32 0x31000000] ∧
   Asm.shutdown.words = .ok [.cmd32 0x31000000, .cmd32 0x32000000, .cmd32 0xA0000000, .cmd32 0xC0000000])

/-- R190 to R192: over the 360 ticks the ramp rises from 0 to 179 and falls back to 0, every tick's two commands carry the
same admitted angle, channel 1 first, and the counter returns after 360 ticks. -/
def Obligations.RampStaysInAngleDomain : Prop :=
  (∀ c, c ≤ 179 → ramp c = c) ∧ (∀ c, 180 ≤ c → c ≤ 359 → ramp c = 359 - c) ∧ (∀ c, c ≤ 359 → ramp c ≤ 179) ∧
  (∀ c, c < 359 → rampNext c = c + 1) ∧ rampNext 359 = 0 ∧
  (∀ c, c < 360 → rampNext^[c] 0 = c) ∧ rampNext^[360] 0 = 0 ∧
  (∀ c p, c < 360 → rampTick c false = [.setang 1 (ramp c), .setang 2 (ramp c)] ∧
    (Asm.setang 1 (ramp c)).instrs = .ok [.setang 1 (BitVec.ofNat 24 (ramp c))] ∧
    (Asm.setang 2 (ramp c)).instrs = .ok [.setang 2 (BitVec.ofNat 24 (ramp c))] ∧
    (BitVec.ofNat 24 (ramp c)).toNat = ramp c ∧
    (Instr.setang 1 (BitVec.ofNat 24 (ramp c))).wf p = true ∧ (Instr.setang 2 (BitVec.ofNat 24 (ramp c))).wf p = true)

/-! ## The whole machine -/

/-- The invariant holds of every newly constructed block. -/
def Obligations.ConstructionMeetsInvariant : Prop := (∀ c : Config, (State.construct c).Inv) ∧ State.reset.Inv

/-- R33: bits [7:2] of the mask stay 0. -/
def Obligations.StepKeepsMaskInRange : Prop :=
  ∀ s t : State, s.MaskInRange → step s = .next t → t.MaskInRange

/-- R98: "Every frame the block writes is well-formed", in the trace and in flight, under its one policy. -/
def Obligations.StepKeepsFramesWellFormed : Prop :=
  ∀ s t : State, s.FramesWellFormed → step s = .next t → t.FramesWellFormed

/-- R82, R160, R181: every frame answered Ok is followed at once by its settle wait, and no other frame by any; a last frame
whose wait is still missing has its timer running. -/
def Obligations.StepKeepsFramesSettled : Prop :=
  ∀ s t : State, s.Settled → step s = .next t → t.Settled

/-- R36, R40, R200: lifecycle, last physical level and the request in flight agree with what the trace did to the
capability: acquire only a fresh line, set and release only a held one, and `last_phys` the last level answered Ok. -/
def Obligations.StepKeepsLineInAgreement : Prop :=
  ∀ s t : State, s.LineAgrees → step s = .next t → t.LineAgrees

/-- Every step keeps the whole invariant: mask range (R33), well-formed frames (R98), settled trace (R82), the line's
agreement with its trace (R36, R40, R200), and `S.rsp` the last response given (R46). -/
def Obligations.StepKeepsInvariant : Prop :=
  ∀ s t : State, s.Inv → step s = .next t → t.Inv

/-- The whole invariant holds after any number of steps of a newly constructed block, whatever the host does and whatever
the external agents answer. -/
def Obligations.EveryRunKeepsInvariant : Prop :=
  ∀ (c : Config) (actions : List HostAction) (e : Env) (k : Nat) (t : State),
    Sys2Proof.core.run k { State.construct c with inbox := actions, env := e } = .next t → State.Inv t

/-- R82: between any two FRAME events of which the first was answered Ok there is a SETTLE event. -/
def Obligations.SettleBetweenFrames : Prop :=
  ∀ s : State, s.Inv → ∀ (before middle after : List Event) (f g : Frame) (r : IoAnswer),
    s.trace = before ++ .frame f .ok :: middle ++ .frame g r :: after → .settle s.cfg.settleMs ∈ middle

/-- R212: the underlying release is issued at most once per instance, and once it is, the line is RELEASED. -/
def Obligations.ReleaseIssuedAtMostOnce : Prop :=
  ∀ s : State, s.Inv → s.trace.count .grel ≤ 1 ∧ (.grel ∈ s.trace → s.line = .released)

/-- R11, R142, R243: no step changes the configuration, the checksum policy among it. -/
def Obligations.ConfigurationNeverChanges : Prop :=
  ∀ s t : State, step s = .next t → t.cfg = s.cfg

/-- R44: nothing is ever removed from the trace of an instance; an `RST` closes it whole (log 11). -/
def Obligations.TraceOnlyGrows : Prop :=
  ∀ s t : State, step s = .next t →
    (t.retired = s.retired ∧ ∃ evs, t.trace = s.trace ++ evs) ∨
    ((∃ rest, s.inbox = .rst :: rest) ∧ t.trace = [] ∧ ∃ evs, t.retired = s.retired ++ [s.trace ++ evs])

/-- R33, R34, R36, R38, R40, R43, R47: each field is written only by the instructions the spec lists as its writers; no
instruction writes the configuration, the host's actions to come or the closed traces. -/
def Obligations.EachFieldHasItsWriters : Prop :=
  ∀ (i : Instr) (s t : State), exec i s = .next t →
    (t.mask ≠ s.mask → ∃ ch, i = .ench ch 0 ∨ i = .disch ch 0) ∧
    (t.lastMode ≠ s.lastMode → ∃ data, i = .setmode 0 data) ∧
    (obsLstate t.line ≠ obsLstate s.line → (∃ data, i = .linit 0 data) ∨ ∃ ch data, i = .lrel ch data) ∧
    (t.line ≠ s.line →
      (∃ data, i = .linit 0 data) ∨ i = .lon 0 0 ∨ i = .loff 0 0 ∨ ∃ ch data, i = .lrel ch data) ∧
    (t.devAl ≠ s.devAl → ∃ data, i = .lsetpol 0 data) ∧
    (t.lastPhys ≠ s.lastPhys → (∃ data, i = .linit 0 data) ∨ i = .lon 0 0 ∨ i = .loff 0 0) ∧
    ((t.rsp ≠ s.rsp ∨ t.responses ≠ s.responses ∨ t.trace ≠ s.trace ∨ t.inflight ≠ s.inflight ∨ t.env ≠ s.env) →
      i.isCommand = true) ∧
    ((t.encReg ≠ s.encReg ∨ t.encParam ≠ s.encParam) → i.isCommand = false) ∧
    t.cfg = s.cfg ∧ t.inbox = s.inbox ∧ t.retired = s.retired

/-- R3: session and output line "do not interact with each other": what a session command does is the same whatever the
line's state, and it leaves the line's state alone; a line command likewise with the session's. -/
def Obligations.SessionAndLineDoNotInteract : Prop :=
  (∀ (i : Instr) (s t : State) (l : Line) (d : Bool) (p : Option Phys), i.isSession = true → exec i s = .next t →
    exec i { s with line := l, devAl := d, lastPhys := p } =
      .next { t with line := l, devAl := d, lastPhys := p }) ∧
  (∀ (i : Instr) (s t : State) (m : BitVec 8) (md : Option Mode), i.isCommand = true → i.isSession = false →
    exec i s = .next t →
    exec i { s with mask := m, lastMode := md } = .next { t with mask := m, lastMode := md })

/-- R76, R77: an Ok answer means all six bytes were transferred to the sink; after IoErr any leading part of the frame, from
no byte to all six, and nothing else may have been. Of what has come out of the sink neither answer says more than that
(R85; log 25). -/
def Obligations.FailedWriteMayDeliverAnyPrefix : Prop :=
  ∀ (f : Frame) (bs : List Byte),
    ((Event.frame f .ok).mayDeliver bs ↔ bs = f.toBytes) ∧
    ((Event.frame f .ioErr).mayDeliver bs ↔ bs <+: f.toBytes) ∧
    (∀ r, (Event.frame f r).mayHaveArrived bs ↔ bs <+: f.toBytes)
end

