-- ==== Sys2Proof/Laws/Frame.lean ====
section
/-! SUPPORT. The small laws of the encodings: the fields of a command word, the bytes of a frame word, register ids, and
the frames that `encode` builds. -/

namespace Sys2Proof

/-- Appending is placing the left part above the right one. -/
theorem toNat_append_add {n m : Nat} (x : BitVec n) (y : BitVec m) :
    (x ++ y).toNat = x.toNat * 2 ^ m + y.toNat := by
  rw [BitVec.toNat_append, ← Nat.shiftLeft_add_eq_or_of_lt y.isLt, Nat.shiftLeft_eq]

/-- A 16-bit parameter is its high byte followed by its low byte (R94). -/
@[simp] theorem half_of_bytes (v : Half) : (v.extractLsb' 8 8 ++ v.extractLsb' 0 8 : Half) = v := by
  apply BitVec.eq_of_toNat_eq
  rw [toNat_append_add]
  simp only [BitVec.extractLsb'_toNat, Nat.shiftRight_eq_div_pow]
  omega

/-- The bytes of a 16-bit parameter in numbers. -/
theorem half_bytes_toNat (v : Half) :
    (v.extractLsb' 8 8).toNat = v.toNat / 256 ∧ (v.extractLsb' 0 8).toNat = v.toNat % 256 := by
  have := v.isLt
  simp only [BitVec.extractLsb'_toNat, Nat.shiftRight_eq_div_pow]
  omega

/-! Command words -/

theorem cmdWord_toNat (op ch : BitVec 4) (data : BitVec 24) :
    (cmdWord op ch data).toNat = op.toNat * 2 ^ 28 + ch.toNat * 2 ^ 24 + data.toNat := by
  change (op ++ ch ++ data).toNat = _
  rw [toNat_append_add, toNat_append_add]
  omega

theorem cmdOp_toNat (w : CmdWord) : (cmdOp w).toNat = w.toNat / 2 ^ 28 := by
  have := w.isLt
  simp only [cmdOp, BitVec.extractLsb'_toNat, Nat.shiftRight_eq_div_pow]
  omega

theorem cmdCh_toNat (w : CmdWord) : (cmdCh w).toNat = w.toNat / 2 ^ 24 % 16 := by
  simp only [cmdCh, BitVec.extractLsb'_toNat, Nat.shiftRight_eq_div_pow]

theorem cmdData_toNat (w : CmdWord) : (cmdData w).toNat = w.toNat % 2 ^ 24 := by
  simp [cmdData, BitVec.extractLsb'_toNat]

@[simp] theorem cmdOp_cmdWord (op ch : BitVec 4) (data : BitVec 24) : cmdOp (cmdWord op ch data) = op := by
  apply BitVec.eq_of_toNat_eq
  have := op.isLt; have := ch.isLt; have := data.isLt
  rw [cmdOp_toNat, cmdWord_toNat]
  omega

@[simp] theorem cmdCh_cmdWord (op ch : BitVec 4) (data : BitVec 24) : cmdCh (cmdWord op ch data) = ch := by
  apply BitVec.eq_of_toNat_eq
  have := op.isLt; have := ch.isLt; have := data.isLt
  rw [cmdCh_toNat, cmdWord_toNat]
  omega

@[simp] theorem cmdData_cmdWord (op ch : BitVec 4) (data : BitVec 24) : cmdData (cmdWord op ch data) = data := by
  apply BitVec.eq_of_toNat_eq
  have := op.isLt; have := ch.isLt; have := data.isLt
  rw [cmdData_toNat, cmdWord_toNat]
  omega

@[simp] theorem cmdWord_of_fields (w : CmdWord) : cmdWord (cmdOp w) (cmdCh w) (cmdData w) = w := by
  apply BitVec.eq_of_toNat_eq
  have := w.isLt
  rw [cmdWord_toNat, cmdOp_toNat, cmdCh_toNat, cmdData_toNat]
  omega

/-- OP of each command (R101). -/
def Opcode.bits : Opcode → BitVec 4
  | .setmode => 0x1 | .ench => 0x2 | .disch => 0x3 | .setang => 0x4 | .setfreq => 0x5 | .reset => 0x6
  | .setbaud => 0x7 | .linit => 0x8 | .lon => 0x9 | .loff => 0xA | .lsetpol => 0xB | .lrel => 0xC

theorem Opcode.ofBits_eq_some {b : BitVec 4} {o : Opcode} : Opcode.ofBits b = some o ↔ b = o.bits := by
  revert b
  cases o <;> decide

theorem Opcode.ofBits_eq_none {b : BitVec 4} : Opcode.ofBits b = none ↔ (b.toNat = 0 ∨ 13 ≤ b.toNat) := by
  revert b
  decide

/-- The word of a command is its opcode and fields. -/
theorem encode_instr (o : Opcode) (ch : BitVec 4) (data : BitVec 24) :
    encode (o.instr ch data) = .cmd32 (cmdWord o.bits ch data) := by cases o <;> rfl

/-- What a command word decodes to. -/
theorem decodeCmd_eq_ok {w : CmdWord} {i : Instr} :
    decodeCmd w = .ok i ↔ ∃ o, Opcode.ofBits (cmdOp w) = some o ∧ o.instr (cmdCh w) (cmdData w) = i := by
  unfold decodeCmd
  cases Opcode.ofBits (cmdOp w) <;> simp

/-! Frame words -/

theorem Frame.toBits_toNat (f : Frame) :
    f.toBits.toNat = f.header1.toNat * 2 ^ 40 + f.header2.toNat * 2 ^ 32 + f.register.toNat * 2 ^ 24 +
      f.paramHigh.toNat * 2 ^ 16 + f.paramLow.toNat * 2 ^ 8 + f.checksum.toNat := by
  change (f.header1 ++ f.header2 ++ f.register ++ f.paramHigh ++ f.paramLow ++ f.checksum).toNat = _
  simp only [toNat_append_add]
  omega

/-- A byte of a frame word by its place. -/
theorem frameByte_toNat (w : FrameWord) (k : Nat) : (w.extractLsb' k 8).toNat = w.toNat / 2 ^ k % 256 := by
  simp only [BitVec.extractLsb'_toNat, Nat.shiftRight_eq_div_pow]

@[simp] theorem Frame.ofBits_toBits (f : Frame) : Frame.ofBits f.toBits = f := by
  rcases f with ⟨a, b, c, d, e, g⟩
  have := a.isLt; have := b.isLt; have := c.isLt; have := d.isLt; have := e.isLt; have := g.isLt
  simp only [Frame.ofBits, Frame.mk.injEq]
  refine ⟨?_, ?_, ?_, ?_, ?_, ?_⟩ <;> apply BitVec.eq_of_toNat_eq <;>
    rw [frameByte_toNat, Frame.toBits_toNat] <;> dsimp only <;> omega

theorem Frame.toBits_ofBits_toNat (w : FrameWord) : (Frame.ofBits w).toBits.toNat = w.toNat := by
  have := w.isLt
  rw [Frame.toBits_toNat]
  simp only [Frame.ofBits, frameByte_toNat]
  omega

/-! Register ids -/

@[simp] theorem Register.ofId_id (r : Register) : Register.ofId r.id = some r := by cases r <;> rfl

theorem Register.id_of_ofId {b : Byte} {r : Register} (h : Register.ofId b = some r) : r.id = b := by
  simp only [Register.ofId] at h
  split at h
  · cases h; simp_all [Register.id]
  split at h
  · cases h; simp_all [Register.id]
  split at h
  · cases h; simp_all [Register.id]
  split at h
  · cases h; simp_all [Register.id]
  split at h
  · cases h; simp_all [Register.id]
  split at h
  · cases h; simp_all [Register.id]
  split at h
  · cases h; simp_all [Register.id]
  · simp at h

/-- The register kind of each frame row. -/
def Register.instr (hi lo ck : Byte) : Register → Instr
  | .mode          => .frmMode lo ck
  | .channelEnable => .frmChannelEnable lo ck
  | .angle1        => .frmAngle1 lo ck
  | .angle2        => .frmAngle2 lo ck
  | .frequency     => .frmFrequency lo ck
  | .reset         => .frmReset (hi ++ lo) ck
  | .baudrate      => .frmBaudrate (hi ++ lo) ck

/-- What a frame decodes to. -/
theorem decodeFrame_eq_ok {f : Frame} {i : Instr} :
    decodeFrame f = .ok i ↔ f.header1 = 0x57 ∧ f.header2 = 0x68 ∧
      ∃ r, Register.ofId f.register = some r ∧ (r.wide = true ∨ f.paramHigh = 0x00) ∧
        r.instr f.paramHigh f.paramLow f.checksum = i := by
  unfold decodeFrame
  by_cases h1 : f.header1 = 0x57#8
  · by_cases h2 : f.header2 = 0x68#8
    · rw [if_neg (by simp [h1, h2])]
      rcases Register.ofId f.register with _ | r
      · simp
      · by_cases h3 : f.paramHigh = 0x00#8 <;> cases r <;> simp [h1, h2, h3, Register.wide, Register.instr]
    · rw [if_pos (.inr h2)]
      simp [h2]
  · rw [if_pos (.inl h1)]
    simp [h1]

theorem Register.ofId_eq_none {b : Byte} : Register.ofId b = none ↔ (b.toNat = 0 ∨ 7 < b.toNat) := by
  revert b
  decide

/-! Frames that `encode` builds -/

@[simp] theorem encodeFrame_header1 (p : Cksum) (r : Register) (v : Half) : (encodeFrame p r v).header1 = 0x57 := rfl
@[simp] theorem encodeFrame_header2 (p : Cksum) (r : Register) (v : Half) : (encodeFrame p r v).header2 = 0x68 := rfl
@[simp] theorem encodeFrame_register (p : Cksum) (r : Register) (v : Half) : (encodeFrame p r v).register = r.id := rfl
@[simp] theorem encodeFrame_paramHigh (p : Cksum) (r : Register) (v : Half) :
    (encodeFrame p r v).paramHigh = paramHighByte r v := rfl
@[simp] theorem encodeFrame_paramLow (p : Cksum) (r : Register) (v : Half) :
    (encodeFrame p r v).paramLow = v.extractLsb' 0 8 := rfl
@[simp] theorem encodeFrame_checksum (p : Cksum) (r : Register) (v : Half) :
    (encodeFrame p r v).checksum = frameChecksum p 0x57 0x68 r.id (paramHighByte r v) (v.extractLsb' 0 8) := rfl

/-- Whatever `encode` is given for a register, the frame is well-formed under its policy (R98). -/
@[simp] theorem encodeFrame_wellFormed (p : Cksum) (r : Register) (v : Half) :
    (encodeFrame p r v).wellFormed p = true := by
  cases r <;> simp [Frame.wellFormed, paramHighByte, Register.wide]

/-- `encode` is the frame of its register and parameter bytes. -/
theorem encodeFrame_eq_frameOf (p : Cksum) (r : Register) (v : Half) :
    encodeFrame p r v = Machine.frameOf p r.id (paramHighByte r v) (v.extractLsb' 0 8) := rfl

/-- A single-byte register takes a byte in the low byte of its parameter, with a zero high byte (R95). -/
theorem encodeFrame_of_byte (p : Cksum) (r : Register) (h : r.wide = false) (b : Byte) :
    encodeFrame p r (b.setWidth 16) = Machine.frameOf p r.id 0x00 b := by
  rw [encodeFrame_eq_frameOf]
  have : (b.setWidth 16).extractLsb' 0 8 = b := by
    apply BitVec.eq_of_toNat_eq
    have := b.isLt
    simp only [BitVec.extractLsb'_toNat, BitVec.toNat_setWidth, Nat.shiftRight_zero]
    omega
  simp [this, paramHighByte, h]

end Sys2Proof
end

