-- ==== Sys2Proof/Laws/State.lean ====
section
/-! SUPPORT. One lemma per field per update of State: what each named update writes, and that it leaves every other field
alone. -/

namespace Sys2Proof.Machine

open Sys2Proof

@[simp] theorem State.raise_eq_finish (s : State) (st : Status) : s.raise st = s.finish st := rfl
@[simp] theorem State.returnOk_eq_finish (s : State) : s.returnOk = s.finish .ok := rfl
@[simp] theorem State.busy_eq_isSome (s : State) : s.busy = s.inflight.isSome := rfl
@[simp] theorem State.lineAl_eq_cfg (s : State) : s.lineAl = s.cfg.lineActiveLow := rfl

/-! `log` -/

@[simp] theorem State.log_cfg (s : State) (ev : Event) : (s.log ev).cfg = s.cfg := rfl
@[simp] theorem State.log_mask (s : State) (ev : Event) : (s.log ev).mask = s.mask := rfl
@[simp] theorem State.log_lastMode (s : State) (ev : Event) : (s.log ev).lastMode = s.lastMode := rfl
@[simp] theorem State.log_line (s : State) (ev : Event) : (s.log ev).line = s.line := rfl
@[simp] theorem State.log_devAl (s : State) (ev : Event) : (s.log ev).devAl = s.devAl := rfl
@[simp] theorem State.log_lastPhys (s : State) (ev : Event) : (s.log ev).lastPhys = s.lastPhys := rfl
@[simp] theorem State.log_inflight (s : State) (ev : Event) : (s.log ev).inflight = s.inflight := rfl
@[simp] theorem State.log_rsp (s : State) (ev : Event) : (s.log ev).rsp = s.rsp := rfl
@[simp] theorem State.log_responses (s : State) (ev : Event) : (s.log ev).responses = s.responses := rfl
@[simp] theorem State.log_trace (s : State) (ev : Event) : (s.log ev).trace = s.trace ++ [ev] := rfl
@[simp] theorem State.log_retired (s : State) (ev : Event) : (s.log ev).retired = s.retired := rfl
@[simp] theorem State.log_encReg (s : State) (ev : Event) : (s.log ev).encReg = s.encReg := rfl
@[simp] theorem State.log_encParam (s : State) (ev : Event) : (s.log ev).encParam = s.encParam := rfl
@[simp] theorem State.log_inbox (s : State) (ev : Event) : (s.log ev).inbox = s.inbox := rfl
@[simp] theorem State.log_env (s : State) (ev : Event) : (s.log ev).env = s.env := rfl

/-! `finish` -/

@[simp] theorem State.finish_cfg (s : State) (st : Status) : (s.finish st).cfg = s.cfg := rfl
@[simp] theorem State.finish_mask (s : State) (st : Status) : (s.finish st).mask = s.mask := rfl
@[simp] theorem State.finish_lastMode (s : State) (st : Status) : (s.finish st).lastMode = s.lastMode := rfl
@[simp] theorem State.finish_line (s : State) (st : Status) : (s.finish st).line = s.line := rfl
@[simp] theorem State.finish_devAl (s : State) (st : Status) : (s.finish st).devAl = s.devAl := rfl
@[simp] theorem State.finish_lastPhys (s : State) (st : Status) : (s.finish st).lastPhys = s.lastPhys := rfl
@[simp] theorem State.finish_inflight (s : State) (st : Status) : (s.finish st).inflight = none := rfl
@[simp] theorem State.finish_rsp (s : State) (st : Status) : (s.finish st).rsp = some st := rfl
@[simp] theorem State.finish_responses (s : State) (st : Status) : (s.finish st).responses = s.responses ++ [st] := rfl
@[simp] theorem State.finish_trace (s : State) (st : Status) : (s.finish st).trace = s.trace := rfl
@[simp] theorem State.finish_retired (s : State) (st : Status) : (s.finish st).retired = s.retired := rfl
@[simp] theorem State.finish_encReg (s : State) (st : Status) : (s.finish st).encReg = s.encReg := rfl
@[simp] theorem State.finish_encParam (s : State) (st : Status) : (s.finish st).encParam = s.encParam := rfl
@[simp] theorem State.finish_inbox (s : State) (st : Status) : (s.finish st).inbox = s.inbox := rfl
@[simp] theorem State.finish_env (s : State) (st : Status) : (s.finish st).env = s.env := rfl

/-! `setLastMode` -/

@[simp] theorem State.setLastMode_cfg (s : State) (m : Mode) : (s.setLastMode m).cfg = s.cfg := rfl
@[simp] theorem State.setLastMode_mask (s : State) (m : Mode) : (s.setLastMode m).mask = s.mask := rfl
@[simp] theorem State.setLastMode_lastMode (s : State) (m : Mode) : (s.setLastMode m).lastMode = some m := rfl
@[simp] theorem State.setLastMode_line (s : State) (m : Mode) : (s.setLastMode m).line = s.line := rfl
@[simp] theorem State.setLastMode_devAl (s : State) (m : Mode) : (s.setLastMode m).devAl = s.devAl := rfl
@[simp] theorem State.setLastMode_lastPhys (s : State) (m : Mode) : (s.setLastMode m).lastPhys = s.lastPhys := rfl
@[simp] theorem State.setLastMode_inflight (s : State) (m : Mode) : (s.setLastMode m).inflight = s.inflight := rfl
@[simp] theorem State.setLastMode_rsp (s : State) (m : Mode) : (s.setLastMode m).rsp = s.rsp := rfl
@[simp] theorem State.setLastMode_responses (s : State) (m : Mode) : (s.setLastMode m).responses = s.responses := rfl
@[simp] theorem State.setLastMode_trace (s : State) (m : Mode) : (s.setLastMode m).trace = s.trace := rfl
@[simp] theorem State.setLastMode_retired (s : State) (m : Mode) : (s.setLastMode m).retired = s.retired := rfl
@[simp] theorem State.setLastMode_encReg (s : State) (m : Mode) : (s.setLastMode m).encReg = s.encReg := rfl
@[simp] theorem State.setLastMode_encParam (s : State) (m : Mode) : (s.setLastMode m).encParam = s.encParam := rfl
@[simp] theorem State.setLastMode_inbox (s : State) (m : Mode) : (s.setLastMode m).inbox = s.inbox := rfl
@[simp] theorem State.setLastMode_env (s : State) (m : Mode) : (s.setLastMode m).env = s.env := rfl

/-! `setMask` -/

@[simp] theorem State.setMask_cfg (s : State) (v : BitVec 8) : (s.setMask v).cfg = s.cfg := rfl
@[simp] theorem State.setMask_mask (s : State) (v : BitVec 8) : (s.setMask v).mask = v := rfl
@[simp] theorem State.setMask_lastMode (s : State) (v : BitVec 8) : (s.setMask v).lastMode = s.lastMode := rfl
@[simp] theorem State.setMask_line (s : State) (v : BitVec 8) : (s.setMask v).line = s.line := rfl
@[simp] theorem State.setMask_devAl (s : State) (v : BitVec 8) : (s.setMask v).devAl = s.devAl := rfl
@[simp] theorem State.setMask_lastPhys (s : State) (v : BitVec 8) : (s.setMask v).lastPhys = s.lastPhys := rfl
@[simp] theorem State.setMask_inflight (s : State) (v : BitVec 8) : (s.setMask v).inflight = s.inflight := rfl
@[simp] theorem State.setMask_rsp (s : State) (v : BitVec 8) : (s.setMask v).rsp = s.rsp := rfl
@[simp] theorem State.setMask_responses (s : State) (v : BitVec 8) : (s.setMask v).responses = s.responses := rfl
@[simp] theorem State.setMask_trace (s : State) (v : BitVec 8) : (s.setMask v).trace = s.trace := rfl
@[simp] theorem State.setMask_retired (s : State) (v : BitVec 8) : (s.setMask v).retired = s.retired := rfl
@[simp] theorem State.setMask_encReg (s : State) (v : BitVec 8) : (s.setMask v).encReg = s.encReg := rfl
@[simp] theorem State.setMask_encParam (s : State) (v : BitVec 8) : (s.setMask v).encParam = s.encParam := rfl
@[simp] theorem State.setMask_inbox (s : State) (v : BitVec 8) : (s.setMask v).inbox = s.inbox := rfl
@[simp] theorem State.setMask_env (s : State) (v : BitVec 8) : (s.setMask v).env = s.env := rfl

/-! `setDevAl` -/

@[simp] theorem State.setDevAl_cfg (s : State) (b : Bool) : (s.setDevAl b).cfg = s.cfg := rfl
@[simp] theorem State.setDevAl_mask (s : State) (b : Bool) : (s.setDevAl b).mask = s.mask := rfl
@[simp] theorem State.setDevAl_lastMode (s : State) (b : Bool) : (s.setDevAl b).lastMode = s.lastMode := rfl
@[simp] theorem State.setDevAl_line (s : State) (b : Bool) : (s.setDevAl b).line = s.line := rfl
@[simp] theorem State.setDevAl_devAl (s : State) (b : Bool) : (s.setDevAl b).devAl = b := rfl
@[simp] theorem State.setDevAl_lastPhys (s : State) (b : Bool) : (s.setDevAl b).lastPhys = s.lastPhys := rfl
@[simp] theorem State.setDevAl_inflight (s : State) (b : Bool) : (s.setDevAl b).inflight = s.inflight := rfl
@[simp] theorem State.setDevAl_rsp (s : State) (b : Bool) : (s.setDevAl b).rsp = s.rsp := rfl
@[simp] theorem State.setDevAl_responses (s : State) (b : Bool) : (s.setDevAl b).responses = s.responses := rfl
@[simp] theorem State.setDevAl_trace (s : State) (b : Bool) : (s.setDevAl b).trace = s.trace := rfl
@[simp] theorem State.setDevAl_retired (s : State) (b : Bool) : (s.setDevAl b).retired = s.retired := rfl
@[simp] theorem State.setDevAl_encReg (s : State) (b : Bool) : (s.setDevAl b).encReg = s.encReg := rfl
@[simp] theorem State.setDevAl_encParam (s : State) (b : Bool) : (s.setDevAl b).encParam = s.encParam := rfl
@[simp] theorem State.setDevAl_inbox (s : State) (b : Bool) : (s.setDevAl b).inbox = s.inbox := rfl
@[simp] theorem State.setDevAl_env (s : State) (b : Bool) : (s.setDevAl b).env = s.env := rfl

/-! `drivePort` -/

@[simp] theorem State.drivePort_cfg (s : State) (r : Byte) (p : Half) : (s.drivePort r p).cfg = s.cfg := rfl
@[simp] theorem State.drivePort_mask (s : State) (r : Byte) (p : Half) : (s.drivePort r p).mask = s.mask := rfl
@[simp] theorem State.drivePort_lastMode (s : State) (r : Byte) (p : Half) : (s.drivePort r p).lastMode = s.lastMode := rfl
@[simp] theorem State.drivePort_line (s : State) (r : Byte) (p : Half) : (s.drivePort r p).line = s.line := rfl
@[simp] theorem State.drivePort_devAl (s : State) (r : Byte) (p : Half) : (s.drivePort r p).devAl = s.devAl := rfl
@[simp] theorem State.drivePort_lastPhys (s : State) (r : Byte) (p : Half) : (s.drivePort r p).lastPhys = s.lastPhys := rfl
@[simp] theorem State.drivePort_inflight (s : State) (r : Byte) (p : Half) : (s.drivePort r p).inflight = s.inflight := rfl
@[simp] theorem State.drivePort_rsp (s : State) (r : Byte) (p : Half) : (s.drivePort r p).rsp = s.rsp := rfl
@[simp] theorem State.drivePort_responses (s : State) (r : Byte) (p : Half) : (s.drivePort r p).responses = s.responses := rfl
@[simp] theorem State.drivePort_trace (s : State) (r : Byte) (p : Half) : (s.drivePort r p).trace = s.trace := rfl
@[simp] theorem State.drivePort_retired (s : State) (r : Byte) (p : Half) : (s.drivePort r p).retired = s.retired := rfl
@[simp] theorem State.drivePort_encReg (s : State) (r : Byte) (p : Half) : (s.drivePort r p).encReg = r := rfl
@[simp] theorem State.drivePort_encParam (s : State) (r : Byte) (p : Half) : (s.drivePort r p).encParam = p := rfl
@[simp] theorem State.drivePort_inbox (s : State) (r : Byte) (p : Half) : (s.drivePort r p).inbox = s.inbox := rfl
@[simp] theorem State.drivePort_env (s : State) (r : Byte) (p : Half) : (s.drivePort r p).env = s.env := rfl

/-! `answered` -/

@[simp] theorem State.answered_cfg (s : State) (evs : List Event) (st : Status) (e : Env) : (s.answered evs st e).cfg = s.cfg := rfl
@[simp] theorem State.answered_mask (s : State) (evs : List Event) (st : Status) (e : Env) : (s.answered evs st e).mask = s.mask := rfl
@[simp] theorem State.answered_lastMode (s : State) (evs : List Event) (st : Status) (e : Env) : (s.answered evs st e).lastMode = s.lastMode := rfl
@[simp] theorem State.answered_line (s : State) (evs : List Event) (st : Status) (e : Env) : (s.answered evs st e).line = s.line := rfl
@[simp] theorem State.answered_devAl (s : State) (evs : List Event) (st : Status) (e : Env) : (s.answered evs st e).devAl = s.devAl := rfl
@[simp] theorem State.answered_lastPhys (s : State) (evs : List Event) (st : Status) (e : Env) : (s.answered evs st e).lastPhys = s.lastPhys := rfl
@[simp] theorem State.answered_inflight (s : State) (evs : List Event) (st : Status) (e : Env) : (s.answered evs st e).inflight = none := rfl
@[simp] theorem State.answered_rsp (s : State) (evs : List Event) (st : Status) (e : Env) : (s.answered evs st e).rsp = some st := rfl
@[simp] theorem State.answered_responses (s : State) (evs : List Event) (st : Status) (e : Env) : (s.answered evs st e).responses = s.responses ++ [st] := rfl
@[simp] theorem State.answered_trace (s : State) (evs : List Event) (st : Status) (e : Env) : (s.answered evs st e).trace = s.trace ++ evs := rfl
@[simp] theorem State.answered_retired (s : State) (evs : List Event) (st : Status) (e : Env) : (s.answered evs st e).retired = s.retired := rfl
@[simp] theorem State.answered_encReg (s : State) (evs : List Event) (st : Status) (e : Env) : (s.answered evs st e).encReg = s.encReg := rfl
@[simp] theorem State.answered_encParam (s : State) (evs : List Event) (st : Status) (e : Env) : (s.answered evs st e).encParam = s.encParam := rfl
@[simp] theorem State.answered_inbox (s : State) (evs : List Event) (st : Status) (e : Env) : (s.answered evs st e).inbox = s.inbox := rfl
@[simp] theorem State.answered_env (s : State) (evs : List Event) (st : Status) (e : Env) : (s.answered evs st e).env = e := rfl

/-! `construct` -/

@[simp] theorem State.construct_cfg (c : Config) : (State.construct c).cfg = c := rfl
@[simp] theorem State.construct_mask (c : Config) : (State.construct c).mask = 0x00 := rfl
@[simp] theorem State.construct_lastMode (c : Config) : (State.construct c).lastMode = none := rfl
@[simp] theorem State.construct_line (c : Config) : (State.construct c).line = .uninit := rfl
@[simp] theorem State.construct_devAl (c : Config) : (State.construct c).devAl = c.devAlInit := rfl
@[simp] theorem State.construct_lastPhys (c : Config) : (State.construct c).lastPhys = none := rfl
@[simp] theorem State.construct_inflight (c : Config) : (State.construct c).inflight = none := rfl
@[simp] theorem State.construct_rsp (c : Config) : (State.construct c).rsp = none := rfl
@[simp] theorem State.construct_responses (c : Config) : (State.construct c).responses = [] := rfl
@[simp] theorem State.construct_trace (c : Config) : (State.construct c).trace = [] := rfl
@[simp] theorem State.construct_retired (c : Config) : (State.construct c).retired = [] := rfl
@[simp] theorem State.construct_encReg (c : Config) : (State.construct c).encReg = 0x00 := rfl
@[simp] theorem State.construct_encParam (c : Config) : (State.construct c).encParam = 0x0000 := rfl
@[simp] theorem State.construct_inbox (c : Config) : (State.construct c).inbox = [] := rfl
@[simp] theorem State.construct_env (c : Config) : (State.construct c).env = { sink := [], acquire := [], set := [], timer := [], polls := 0 } := rfl

/-! `rst` -/

@[simp] theorem State.rst_cfg (s : State) : s.rst.cfg = s.cfg := rfl
@[simp] theorem State.rst_mask (s : State) : s.rst.mask = 0x00 := rfl
@[simp] theorem State.rst_lastMode (s : State) : s.rst.lastMode = none := rfl
@[simp] theorem State.rst_line (s : State) : s.rst.line = .uninit := rfl
@[simp] theorem State.rst_devAl (s : State) : s.rst.devAl = s.cfg.devAlInit := rfl
@[simp] theorem State.rst_lastPhys (s : State) : s.rst.lastPhys = none := rfl
@[simp] theorem State.rst_inflight (s : State) : s.rst.inflight = none := rfl
@[simp] theorem State.rst_rsp (s : State) : s.rst.rsp = none := rfl
@[simp] theorem State.rst_responses (s : State) : s.rst.responses = [] := rfl
@[simp] theorem State.rst_trace (s : State) : s.rst.trace = [] := rfl
@[simp] theorem State.rst_retired (s : State) : s.rst.retired = s.retired ++ [if s.line.held then s.trace ++ [.grel] else s.trace] := rfl
@[simp] theorem State.rst_encReg (s : State) : s.rst.encReg = s.encReg := rfl
@[simp] theorem State.rst_encParam (s : State) : s.rst.encParam = s.encParam := rfl
@[simp] theorem State.rst_inbox (s : State) : s.rst.inbox = s.inbox := rfl
@[simp] theorem State.rst_env (s : State) : s.rst.env = s.env := rfl

end Sys2Proof.Machine
end

