-- ==== Sys2Proof/Laws/Ops.lean ====
section
/-! SUPPORT. For each shared operation, once, everything it can do. -/

namespace Sys2Proof.Machine

open Sys2Proof

/-- `finish` is `answered` with no event and the agents as they are. -/
theorem State.finish_eq_answered (s : State) (st : Status) : s.finish st = s.answered [] st s.env := by
  simp [State.finish, State.answered]

theorem State.answered_answered_env (s : State) (e' : Env) (evs : List Event) (st : Status) (e : Env) :
    ({ s with env := e' } : State).answered evs st e = s.answered evs st e := rfl

theorem State.answered_inflight_irrelevant (s : State) (q : Option Request) (evs : List Event) (st : Status) (e : Env) :
    ({ s with inflight := q } : State).answered evs st e = s.answered evs st e := rfl

/-- The settle wait from its last step on: SETTLE and OK. -/
theorem State.settleWait_expired (s : State) :
    s.settleWait 0 = s.answered [.settle s.cfg.settleMs] .ok s.env := rfl

theorem State.settleWait_running (s : State) (left : Nat) :
    s.settleWait (left + 1) = { s with inflight := some (.settle left) } := rfl

/-- A settle wait in flight ends after its steps, whatever their number (R281: "guaranteed by weak fairness"). -/
theorem State.settle_ends (s : State) (left : Nat) (h : s.inflight = some (.settle left)) :
    State.poll^[left + 1] s = s.answered [.settle s.cfg.settleMs] .ok s.env := by
  induction left generalizing s with
  | zero => simp [State.poll, h, State.settleWait_expired]
  | succ n ih =>
    rw [Function.iterate_succ_apply]
    have hp : s.poll = { s with inflight := some (.settle n) } := by simp [State.poll, h, State.settleWait]
    rw [hp, ih _ rfl]
    rfl

/-- What a write answered Ok leaves, by the steps the settle timer takes. -/
def State.sentOutcome (s : State) (f : Frame) : Nat → Env → State
  | 0, e        => s.answered [.frame f .ok, .settle s.cfg.settleMs] .ok e
  | left + 1, e => { s with trace := s.trace ++ [.frame f .ok], inflight := some (.settle left), env := e }

/-- Whatever steps the settle timer takes, after them the command is over: FRAME, SETTLE and OK (R160). -/
theorem State.sentOutcome_settles (s : State) (f : Frame) (n : Nat) (e : Env) :
    State.poll^[n] (s.sentOutcome f n e) = s.answered [.frame f .ok, .settle s.cfg.settleMs] .ok e := by
  cases n with
  | zero => rfl
  | succ left =>
    simp only [State.sentOutcome]
    rw [State.settle_ends _ left rfl]
    simp [State.answered]

theorem State.afterWrite_ok (s : State) (f : Frame) :
    s.afterWrite f .ok = s.sentOutcome f s.env.pollTimer.1 s.env.pollTimer.2 := by
  unfold State.afterWrite
  rcases s.env.pollTimer with ⟨_ | left, e⟩
  · simp [State.settleWait, State.sentOutcome, State.returnOk, State.finish, State.log, State.answered]
  · rfl

theorem State.afterWrite_ioErr (s : State) (f : Frame) :
    s.afterWrite f .ioErr = s.answered [.frame f .ioErr] .ioError s.env := rfl

theorem State.afterAcquire_ok (s : State) (level : Level) (lvl : Phys) :
    s.afterAcquire level lvl .ok = { s with line := .init level, lastPhys := some lvl }.answered
      [.gacq s.cfg.chipId s.cfg.lineOffset lvl .ok] .ok s.env := rfl

theorem State.afterAcquire_acqErr (s : State) (level : Level) (lvl : Phys) :
    s.afterAcquire level lvl .acqErr =
      s.answered [.gacq s.cfg.chipId s.cfg.lineOffset lvl .acqErr] .acqError s.env := rfl

theorem State.afterSet_ok (s : State) (level : Level) (lvl : Phys) :
    s.afterSet level lvl .ok =
      { s with line := .init level, lastPhys := some lvl }.answered [.gset lvl .ok] .ok s.env := rfl

theorem State.afterSet_ioErr (s : State) (level : Level) (lvl : Phys) :
    s.afterSet level lvl .ioErr = s.answered [.gset lvl .ioErr] .ioError s.env := rfl

/-- With nothing in flight a poll does nothing. -/
theorem State.poll_of_idle (s : State) (h : s.inflight = none) : s.poll = s := by
  simp [State.poll, h]

/-- What a poll of a SinkWrite leaves, by the sink's answer. -/
def State.writeOutcome (s : State) (f : Frame) : Option IoAnswer → Env → State
  | none, e        => { s with env := e }
  | some .ok, e    => s.sentOutcome f e.pollTimer.1 e.pollTimer.2
  | some .ioErr, e => s.answered [.frame f .ioErr] .ioError e

/-- What a poll of a GpioAcquire leaves, by the capability's answer. -/
def State.acquireOutcome (s : State) (level : Level) (lvl : Phys) : Option AcqAnswer → Env → State
  | none, e => { s with env := e }
  | some .ok, e => { s with line := .init level, lastPhys := some lvl }.answered
      [.gacq s.cfg.chipId s.cfg.lineOffset lvl .ok] .ok e
  | some .acqErr, e => s.answered [.gacq s.cfg.chipId s.cfg.lineOffset lvl .acqErr] .acqError e

/-- What a poll of a GpioSet leaves, by the capability's answer. -/
def State.setOutcome (s : State) (level : Level) (lvl : Phys) : Option IoAnswer → Env → State
  | none, e => { s with env := e }
  | some .ok, e => { s with line := .init level, lastPhys := some lvl }.answered [.gset lvl .ok] .ok e
  | some .ioErr, e => s.answered [.gset lvl .ioErr] .ioError e

theorem State.poll_of_sinkWrite (s : State) (f : Frame) (h : s.inflight = some (.sinkWrite f)) :
    s.poll = s.writeOutcome f s.env.pollSink.1 s.env.pollSink.2 := by
  cases s
  dsimp only at h
  subst h
  unfold State.poll
  dsimp only
  split <;> rename_i he
  · rw [he]; rfl
  · rename_i r e
    rw [he]
    cases r
    · exact State.afterWrite_ok _ f
    · rfl

theorem State.poll_of_gpioAcquire (s : State) (level : Level) (lvl : Phys)
    (h : s.inflight = some (.gpioAcquire level lvl)) :
    s.poll = s.acquireOutcome level lvl s.env.pollAcquire.1 s.env.pollAcquire.2 := by
  cases s
  dsimp only at h
  subst h
  unfold State.poll
  dsimp only
  split <;> rename_i he
  · rw [he]; rfl
  · rename_i r e
    rw [he]
    cases r <;> rfl

theorem State.poll_of_gpioSet (s : State) (level : Level) (lvl : Phys)
    (h : s.inflight = some (.gpioSet level lvl)) :
    s.poll = s.setOutcome level lvl s.env.pollSet.1 s.env.pollSet.2 := by
  cases s
  dsimp only at h
  subst h
  unfold State.poll
  dsimp only
  split <;> rename_i he
  · rw [he]; rfl
  · rename_i r e
    rw [he]
    cases r <;> rfl

theorem State.poll_of_settle (s : State) (left : Nat) (h : s.inflight = some (.settle left)) :
    s.poll = s.settleWait left := by
  simp [State.poll, h]

/-- Everything a poll can do: nothing with nothing in flight; only the agents move while there is no answer; one of the
six answers ends the command, or starts its settle wait; the settle timer comes nearer to its expiry, or expires. -/
theorem State.poll_cases (s : State) :
    (s.inflight = none ∧ s.poll = s) ∨
    (s.inflight ≠ none ∧ ∃ e, s.poll = { s with env := e }) ∨
    (∃ f e, s.inflight = some (.sinkWrite f) ∧
      s.poll = s.answered [.frame f .ok, .settle s.cfg.settleMs] .ok e) ∨
    (∃ f left e, s.inflight = some (.sinkWrite f) ∧
      s.poll = { s with trace := s.trace ++ [.frame f .ok], inflight := some (.settle left), env := e }) ∨
    (s.inflight = some (.settle 0) ∧ s.poll = s.answered [.settle s.cfg.settleMs] .ok s.env) ∨
    (∃ left, s.inflight = some (.settle (left + 1)) ∧ s.poll = { s with inflight := some (.settle left) }) ∨
    (∃ f e, s.inflight = some (.sinkWrite f) ∧ s.poll = s.answered [.frame f .ioErr] .ioError e) ∨
    (∃ level lvl e, s.inflight = some (.gpioAcquire level lvl) ∧
      s.poll = { s with line := .init level, lastPhys := some lvl }.answered
        [.gacq s.cfg.chipId s.cfg.lineOffset lvl .ok] .ok e) ∨
    (∃ level lvl e, s.inflight = some (.gpioAcquire level lvl) ∧
      s.poll = s.answered [.gacq s.cfg.chipId s.cfg.lineOffset lvl .acqErr] .acqError e) ∨
    (∃ level lvl e, s.inflight = some (.gpioSet level lvl) ∧
      s.poll = { s with line := .init level, lastPhys := some lvl }.answered [.gset lvl .ok] .ok e) ∨
    (∃ level lvl e, s.inflight = some (.gpioSet level lvl) ∧
      s.poll = s.answered [.gset lvl .ioErr] .ioError e) := by
  obtain h | ⟨f, h⟩ | ⟨level, lvl, h⟩ | ⟨level, lvl, h⟩ | h | ⟨left, h⟩ :
      s.inflight = none ∨ (∃ f, s.inflight = some (.sinkWrite f)) ∨
      (∃ level lvl, s.inflight = some (.gpioAcquire level lvl)) ∨
      (∃ level lvl, s.inflight = some (.gpioSet level lvl)) ∨
      s.inflight = some (.settle 0) ∨ (∃ left, s.inflight = some (.settle (left + 1))) := by
    rcases s.inflight with _ | ⟨f⟩ | ⟨level, lvl⟩ | ⟨level, lvl⟩ | ⟨_ | left⟩ <;> simp
  · exact .inl ⟨h, s.poll_of_idle h⟩
  · rw [s.poll_of_sinkWrite f h]
    rcases s.env.pollSink with ⟨_ | _ | _, e⟩
    · exact .inr (.inl ⟨by simp [h], e, rfl⟩)
    · simp only [State.writeOutcome]
      rcases e.pollTimer with ⟨_ | left, e'⟩
      · exact .inr (.inr (.inl ⟨f, e', h, rfl⟩))
      · exact .inr (.inr (.inr (.inl ⟨f, left, e', h, rfl⟩)))
    · exact .inr (.inr (.inr (.inr (.inr (.inr (.inl ⟨f, e, h, rfl⟩))))))
  · rw [s.poll_of_gpioAcquire level lvl h]
    rcases s.env.pollAcquire with ⟨_ | _ | _, e⟩
    · exact .inr (.inl ⟨by simp [h], e, rfl⟩)
    · exact .inr (.inr (.inr (.inr (.inr (.inr (.inr (.inl ⟨level, lvl, e, h, rfl⟩)))))))
    · exact .inr (.inr (.inr (.inr (.inr (.inr (.inr (.inr (.inl ⟨level, lvl, e, h, rfl⟩))))))))
  · rw [s.poll_of_gpioSet level lvl h]
    rcases s.env.pollSet with ⟨_ | _ | _, e⟩
    · exact .inr (.inl ⟨by simp [h], e, rfl⟩)
    · exact .inr (.inr (.inr (.inr (.inr (.inr (.inr (.inr (.inr (.inl ⟨level, lvl, e, h, rfl⟩)))))))))
    · exact .inr (.inr (.inr (.inr (.inr (.inr (.inr (.inr (.inr (.inr ⟨level, lvl, e, h, rfl⟩)))))))))
  · exact .inr (.inr (.inr (.inr (.inl ⟨h, s.poll_of_settle 0 h⟩))))
  · exact .inr (.inr (.inr (.inr (.inr (.inl ⟨left, h, s.poll_of_settle (left + 1) h⟩)))))

/-- What a SinkWrite request does: `t` below is the state with the request in flight. -/
theorem State.request_sinkWrite (s : State) (f : Frame) :
    s.request (.sinkWrite f) =
      { s with inflight := some (.sinkWrite f) }.writeOutcome f s.env.pollSink.1 s.env.pollSink.2 :=
  State.poll_of_sinkWrite _ f rfl

theorem State.request_gpioAcquire (s : State) (level : Level) (lvl : Phys) :
    s.request (.gpioAcquire level lvl) =
      { s with inflight := some (.gpioAcquire level lvl) }.acquireOutcome level lvl
        s.env.pollAcquire.1 s.env.pollAcquire.2 :=
  State.poll_of_gpioAcquire _ level lvl rfl

theorem State.request_gpioSet (s : State) (level : Level) (lvl : Phys) :
    s.request (.gpioSet level lvl) =
      { s with inflight := some (.gpioSet level lvl) }.setOutcome level lvl s.env.pollSet.1 s.env.pollSet.2 :=
  State.poll_of_gpioSet _ level lvl rfl

/-- Everything `issue` can do: the frame stays in flight; its answer Ok ends the command or starts its settle wait; or its
answer IoErr ends the command. -/
theorem State.issue_cases (s : State) (r : Register) (param : Half) :
    (∃ e, s.issue r param =
      { s with inflight := some (.sinkWrite (encodeFrame s.cfg.cksum r param)), env := e }) ∨
    (∃ e, s.issue r param =
      s.answered [.frame (encodeFrame s.cfg.cksum r param) .ok, .settle s.cfg.settleMs] .ok e) ∨
    (∃ left e, s.issue r param =
      { s with trace := s.trace ++ [.frame (encodeFrame s.cfg.cksum r param) .ok], inflight := some (.settle left),
               env := e }) ∨
    (∃ e, s.issue r param = s.answered [.frame (encodeFrame s.cfg.cksum r param) .ioErr] .ioError e) := by
  unfold State.issue
  rw [State.request_sinkWrite]
  rcases s.env.pollSink with ⟨_ | _ | _, e⟩
  · exact .inl ⟨e, rfl⟩
  · simp only [State.writeOutcome]
    rcases e.pollTimer with ⟨_ | left, e'⟩
    · exact .inr (.inl ⟨e', rfl⟩)
    · exact .inr (.inr (.inl ⟨left, e', rfl⟩))
  · exact .inr (.inr (.inr ⟨e, rfl⟩))

theorem State.request_gpioAcquire_cases (s : State) (level : Level) (lvl : Phys) :
    (∃ e, s.request (.gpioAcquire level lvl) = { s with inflight := some (.gpioAcquire level lvl), env := e }) ∨
    (∃ e, s.request (.gpioAcquire level lvl) = { s with line := .init level, lastPhys := some lvl }.answered
      [.gacq s.cfg.chipId s.cfg.lineOffset lvl .ok] .ok e) ∨
    (∃ e, s.request (.gpioAcquire level lvl) =
      s.answered [.gacq s.cfg.chipId s.cfg.lineOffset lvl .acqErr] .acqError e) := by
  rw [State.request_gpioAcquire]
  rcases s.env.pollAcquire with ⟨_ | _ | _, e⟩
  · exact .inl ⟨e, rfl⟩
  · exact .inr (.inl ⟨e, rfl⟩)
  · exact .inr (.inr ⟨e, rfl⟩)

theorem State.request_gpioSet_cases (s : State) (level : Level) (lvl : Phys) :
    (∃ e, s.request (.gpioSet level lvl) = { s with inflight := some (.gpioSet level lvl), env := e }) ∨
    (∃ e, s.request (.gpioSet level lvl) =
      { s with line := .init level, lastPhys := some lvl }.answered [.gset lvl .ok] .ok e) ∨
    (∃ e, s.request (.gpioSet level lvl) = s.answered [.gset lvl .ioErr] .ioError e) := by
  rw [State.request_gpioSet]
  rcases s.env.pollSet with ⟨_ | _ | _, e⟩
  · exact .inl ⟨e, rfl⟩
  · exact .inr (.inl ⟨e, rfl⟩)
  · exact .inr (.inr ⟨e, rfl⟩)

/-- Everything the release can do (R211). -/
theorem State.releaseLine_cases (s : State) :
    ((∃ l, s.line = .init l) ∧ s.releaseLine = { s with line := .released, trace := s.trace ++ [.grel] }) ∨
    ((∀ l, s.line ≠ .init l) ∧ s.releaseLine = { s with line := .released }) := by
  rcases h : s.line with _ | l | _
  · exact .inr ⟨by simp, by simp [State.releaseLine, h]⟩
  · exact .inl ⟨⟨l, rfl⟩, by simp [State.releaseLine, h, State.log]⟩
  · refine .inr ⟨by simp, ?_⟩
    cases s
    simp_all [State.releaseLine]

end Sys2Proof.Machine
end

