-- ==== Sys2Proof/Laws/Exec.lean ====
section
/-! SUPPORT. What the meanings can do, said once for each unit: the codec, the session, the line. -/

namespace Sys2Proof.Machine

open Sys2Proof

/-- Setting or clearing a channel's bit touches bit 0 or bit 1 only (R163, R166). -/
theorem maskEnabling_range (m : BitVec 8) (c : Channel) : maskEnabling m c &&& 0xFC#8 = m &&& 0xFC#8 := by
  cases c <;> revert m <;> decide

theorem maskDisabling_range (m : BitVec 8) (c : Channel) : maskDisabling m c &&& 0xFC#8 = m &&& 0xFC#8 := by
  cases c <;> revert m <;> decide

/-- A frame row only drives the codec port's inputs. -/
theorem exec_frame_cases (i : Instr) (s : State) (h : i.isCommand = false) :
    ∃ reg param, exec i s = .next (s.drivePort reg param) := by
  cases i <;> first | (exact ⟨_, _, rfl⟩) | (simp [Instr.isCommand] at h)

/-- Everything a session command can do: a status at once, or `issue` after a write to the mask (bits 0 and 1 only) or
to the last mode. -/
theorem exec_session_cases (i : Instr) (s : State) (h : i.isSession = true) :
    (∃ st, (st = .ok ∨ st = .invalidParam) ∧ exec i s = .next (s.finish st)) ∨
    (∃ m md r param, m &&& 0xFC#8 = s.mask &&& 0xFC#8 ∧
      exec i s = .next (({ s with mask := m, lastMode := md } : State).issue r param)) := by
  cases i <;> simp only [Instr.isSession, reduceCtorEq] at h <;>
    simp only [exec, execSetmode, execEnch, execDisch, execSetang, execSetfreq, execReset, execSetbaud]
  · split
    · exact .inl ⟨_, .inr rfl, rfl⟩
    split
    · exact .inl ⟨_, .inr rfl, rfl⟩
    · exact .inr ⟨s.mask, _, _, _, rfl, rfl⟩
  · split
    · exact .inl ⟨_, .inr rfl, rfl⟩
    split
    · exact .inl ⟨_, .inr rfl, rfl⟩
    · exact .inr ⟨_, s.lastMode, _, _, maskEnabling_range _ _, rfl⟩
  · split
    · exact .inl ⟨_, .inr rfl, rfl⟩
    split
    · exact .inl ⟨_, .inr rfl, rfl⟩
    · exact .inr ⟨_, s.lastMode, _, _, maskDisabling_range _ _, rfl⟩
  · split
    · exact .inl ⟨_, .inr rfl, rfl⟩
    split
    · exact .inl ⟨_, .inr rfl, rfl⟩
    · exact .inr ⟨s.mask, s.lastMode, _, _, rfl, rfl⟩
  · split
    · exact .inl ⟨_, .inr rfl, rfl⟩
    split
    · exact .inr ⟨s.mask, s.lastMode, _, _, rfl, rfl⟩
    · exact .inl ⟨_, .inl rfl, rfl⟩
  · split
    · exact .inl ⟨_, .inr rfl, rfl⟩
    split
    · exact .inl ⟨_, .inr rfl, rfl⟩
    · exact .inr ⟨s.mask, s.lastMode, _, _, rfl, rfl⟩
  · split
    · exact .inl ⟨_, .inr rfl, rfl⟩
    split
    · exact .inl ⟨_, .inl rfl, rfl⟩
    · exact .inr ⟨s.mask, s.lastMode, _, _, rfl, rfl⟩

/-- Everything a line command can do: a status at once; an acquire from UNINIT; a set from INIT; a new device polarity;
or the release. -/
theorem exec_line_cases (i : Instr) (s : State) (hc : i.isCommand = true) (hs : i.isSession = false) :
    (∃ st, exec i s = .next (s.finish st)) ∨
    (s.line = .uninit ∧ ∃ level lvl, exec i s = .next (s.request (.gpioAcquire level lvl))) ∨
    ((∃ l, s.line = .init l) ∧ ∃ level lvl, exec i s = .next (s.request (.gpioSet level lvl))) ∨
    (∃ b, exec i s = .next ((s.setDevAl b).finish .ok)) ∨
    exec i s = .next (s.releaseLine.finish .ok) := by
  cases i <;> simp only [Instr.isSession, Instr.isCommand, reduceCtorEq] at hc hs <;>
    simp only [exec, execLinit, execLon, execLoff, execLsetpol, execLrel]
  · split
    · exact .inl ⟨_, rfl⟩
    split
    · exact .inl ⟨_, rfl⟩
    split
    · exact .inr (.inl ⟨‹_›, _, _, rfl⟩)
    · exact .inl ⟨_, rfl⟩
    · exact .inl ⟨_, rfl⟩
  · split
    · exact .inl ⟨_, rfl⟩
    split
    · exact .inr (.inr (.inl ⟨⟨_, ‹_›⟩, _, _, rfl⟩))
    · exact .inl ⟨_, rfl⟩
    · exact .inl ⟨_, rfl⟩
  · split
    · exact .inl ⟨_, rfl⟩
    split
    · exact .inr (.inr (.inl ⟨⟨_, ‹_›⟩, _, _, rfl⟩))
    · exact .inl ⟨_, rfl⟩
    · exact .inl ⟨_, rfl⟩
  · split
    · exact .inl ⟨_, rfl⟩
    split
    · exact .inl ⟨_, rfl⟩
    · exact .inr (.inr (.inr (.inl ⟨_, rfl⟩)))
  · exact .inr (.inr (.inr (.inr rfl)))

/-- A command word decodes to a command, a frame word to a frame row. -/
theorem isCommand_of_decode_cmd {w : CmdWord} {i : Instr} (h : decode (.cmd32 w) = .ok i) : i.isCommand = true := by
  obtain ⟨o, -, rfl⟩ := decodeCmd_eq_ok.mp h
  cases o <;> rfl

theorem not_isCommand_of_decode_frame {w : FrameWord} {i : Instr} (h : decode (.frame48 w) = .ok i) :
    i.isCommand = false := by
  obtain ⟨-, -, r, -, -, rfl⟩ := decodeFrame_eq_ok.mp h
  cases r <;> rfl

end Sys2Proof.Machine
end

