-- ==== Sys2Proof/Laws/Step.lean ====
section
/-! SUPPORT. What `fetch` takes and what a step can do. -/

namespace Sys2Proof.Machine

open Sys2Proof

/-! What is taken, by the host's next action -/

theorem fetch_of_no_action (s : State) (h : s.inbox = []) : fetch s = .done (.next s.poll) := by
  simp only [fetch, h]

theorem fetch_of_codec (s : State) (reg : Byte) (param : Half) (rest : List HostAction)
    (h : s.inbox = .codec reg param :: rest) :
    fetch s = .done (.next (({ s with inbox := rest } : State).drivePort reg param)) := by
  simp only [fetch, h]

theorem fetch_of_frame (s : State) (w : FrameWord) (rest : List HostAction)
    (h : s.inbox = .word (.frame48 w) :: rest) : fetch s = acceptFrame w { s with inbox := rest } := by
  simp only [fetch, h]

theorem fetch_of_command_busy (s : State) (w : CmdWord) (rest : List HostAction)
    (h : s.inbox = .word (.cmd32 w) :: rest) (hb : s.busy = true) : fetch s = .done (.next s.poll) := by
  simp only [fetch, h]
  rw [if_pos hb]

theorem fetch_of_command (s : State) (w : CmdWord) (rest : List HostAction)
    (h : s.inbox = .word (.cmd32 w) :: rest) (hb : s.busy = false) :
    fetch s = acceptCmd w { s with inbox := rest } := by
  simp only [fetch, h]
  rw [if_neg (by rw [hb]; exact Bool.false_ne_true)]

theorem fetch_of_rst_busy (s : State) (rest : List HostAction) (h : s.inbox = .rst :: rest) (hb : s.busy = true) :
    fetch s = .done (.next s.poll) := by
  simp only [fetch, h]
  rw [if_pos hb]

theorem fetch_of_rst (s : State) (rest : List HostAction) (h : s.inbox = .rst :: rest) (hb : s.busy = false) :
    fetch s = .done (.next ({ s with inbox := rest } : State).rst) := by
  simp only [fetch, h]
  rw [if_neg (by rw [hb]; exact Bool.false_ne_true)]

/-- Everything a step that goes on can have been: the agents were asked; an illegal opcode was answered; an `RST`; inputs
of the codec port; a frame row; a command, taken only with nothing in flight. -/
theorem step_cases {s t : State} (h : step s = .next t) :
    t = s.poll ∨
    (∃ rest, s.inflight = none ∧ t = ({ s with inbox := rest } : State).finish .illegalCmd) ∨
    (∃ rest, s.inbox = .rst :: rest ∧ s.inflight = none ∧ t = ({ s with inbox := rest } : State).rst) ∨
    (∃ rest reg param, t = ({ s with inbox := rest } : State).drivePort reg param) ∨
    (∃ rest i, i.isCommand = false ∧ exec i { s with inbox := rest } = .next t) ∨
    (∃ rest i, i.isCommand = true ∧ s.inflight = none ∧ exec i { s with inbox := rest } = .next t) := by
  unfold step fetch at h
  rcases hi : s.inbox with _ | ⟨a, rest⟩ <;> rw [hi] at h
  · injection h with h
    exact .inl h.symm
  · rcases a with ⟨w | w⟩ | ⟨reg, param⟩ | _ <;> dsimp only at h
    · split at h
      · rename_i heq
        split at heq
        · exact nomatch heq
        · rename_i hb
          unfold acceptCmd at heq
          split at heq
          · rename_i hd
            cases heq
            refine .inr (.inr (.inr (.inr (.inr ⟨rest, _, isCommand_of_decode_cmd hd, ?_, h⟩))))
            simpa using hb
          · exact nomatch heq
      · rename_i heq
        split at heq
        · injection heq with heq
          subst heq
          injection h with h
          exact .inl h.symm
        · rename_i hb
          unfold acceptCmd at heq
          split at heq
          · exact nomatch heq
          · injection heq with heq
            subst heq
            injection h with h
            exact .inr (.inl ⟨rest, by simpa using hb, h.symm⟩)
    · split at h
      · rename_i heq
        unfold acceptFrame at heq
        split at heq
        · rename_i hd
          cases heq
          exact .inr (.inr (.inr (.inr (.inl ⟨rest, _, not_isCommand_of_decode_frame hd, h⟩))))
        · exact nomatch heq
      · rename_i heq
        unfold acceptFrame at heq
        split at heq
        · exact nomatch heq
        · injection heq with heq
          subst heq
          exact nomatch h
    · injection h with h
      exact .inr (.inr (.inr (.inl ⟨rest, reg, param, h.symm⟩)))
    · split at h
      · rename_i heq
        split at heq <;> exact nomatch heq
      · rename_i heq
        split at heq
        · injection heq with heq
          subst heq
          injection h with h
          exact .inl h.symm
        · rename_i hb
          injection heq with heq
          subst heq
          injection h with h
          exact .inr (.inr (.inl ⟨rest, rfl, by simpa using hb, h.symm⟩))

end Sys2Proof.Machine
end

