-- ==== Sys2Proof/Laws/Invariant.lean ====
section
/-! SUPPORT. One induction for every invariant: a predicate kept by each elementary change is kept by every step. And how
the readings of a trace (settled, last level, handle) go over an append. -/

namespace Sys2Proof.Machine

open Sys2Proof

/-- `P` is kept by each elementary change a step is made of: the agents, the six answers, the settle timer's start, its
steps and its expiry, the host's queue, the codec port, `RST`, a response, the three requests, a new polarity, the
release. -/
structure KeptByParts (P : State → Prop) : Prop where
  env       : ∀ s e, P s → P { s with env := e }
  writeOk   : ∀ s f e, P s → s.inflight = some (.sinkWrite f) →
                P (s.answered [.frame f .ok, .settle s.cfg.settleMs] .ok e)
  settling  : ∀ s f left e, P s → s.inflight = some (.sinkWrite f) →
                P { s with trace := s.trace ++ [.frame f .ok], inflight := some (.settle left), env := e }
  expiring  : ∀ s left, P s → s.inflight = some (.settle (left + 1)) → P { s with inflight := some (.settle left) }
  expired   : ∀ s, P s → s.inflight = some (.settle 0) → P (s.answered [.settle s.cfg.settleMs] .ok s.env)
  writeErr  : ∀ s f e, P s → s.inflight = some (.sinkWrite f) → P (s.answered [.frame f .ioErr] .ioError e)
  acqOk     : ∀ s l p e, P s → s.inflight = some (.gpioAcquire l p) →
                P ({ s with line := .init l, lastPhys := some p }.answered
                  [.gacq s.cfg.chipId s.cfg.lineOffset p .ok] .ok e)
  acqErr    : ∀ s l p e, P s → s.inflight = some (.gpioAcquire l p) →
                P (s.answered [.gacq s.cfg.chipId s.cfg.lineOffset p .acqErr] .acqError e)
  setOk     : ∀ s l p e, P s → s.inflight = some (.gpioSet l p) →
                P ({ s with line := .init l, lastPhys := some p }.answered [.gset p .ok] .ok e)
  setErr    : ∀ s l p e, P s → s.inflight = some (.gpioSet l p) → P (s.answered [.gset p .ioErr] .ioError e)
  inbox     : ∀ s r, P s → P { s with inbox := r }
  port      : ∀ s r v, P s → P (s.drivePort r v)
  rst       : ∀ s, P s → s.inflight = none → P s.rst
  respond   : ∀ s st, P s → s.inflight = none → P (s.finish st)
  session   : ∀ s m md r v, P s → s.inflight = none → m &&& 0xFC#8 = s.mask &&& 0xFC#8 →
                P { s with mask := m, lastMode := md, inflight := some (.sinkWrite (encodeFrame s.cfg.cksum r v)) }
  acquire   : ∀ s l p, P s → s.inflight = none → s.line = .uninit → P { s with inflight := some (.gpioAcquire l p) }
  set       : ∀ s l p, P s → s.inflight = none → (∃ l', s.line = .init l') →
                P { s with inflight := some (.gpioSet l p) }
  polarity  : ∀ s b, P s → P (s.setDevAl b)
  release   : ∀ s, P s → s.inflight = none → P s.releaseLine

theorem KeptByParts.poll {P : State → Prop} (k : KeptByParts P) (s : State) (h : P s) : P s.poll := by
  rcases s.poll_cases with ⟨-, h'⟩ | ⟨-, e, h'⟩ | ⟨f, e, hi, h'⟩ | ⟨f, left, e, hi, h'⟩ | ⟨hi, h'⟩ | ⟨left, hi, h'⟩ |
    ⟨f, e, hi, h'⟩ | ⟨l, p, e, hi, h'⟩ | ⟨l, p, e, hi, h'⟩ | ⟨l, p, e, hi, h'⟩ | ⟨l, p, e, hi, h'⟩ <;> rw [h']
  · exact h
  · exact k.env _ _ h
  · exact k.writeOk _ _ _ h hi
  · exact k.settling _ _ _ _ h hi
  · exact k.expired _ h hi
  · exact k.expiring _ _ h hi
  · exact k.writeErr _ _ _ h hi
  · exact k.acqOk _ _ _ _ h hi
  · exact k.acqErr _ _ _ _ h hi
  · exact k.setOk _ _ _ _ h hi
  · exact k.setErr _ _ _ _ h hi

theorem KeptByParts.command {P : State → Prop} (k : KeptByParts P) (i : Instr) (u t : State)
    (hc : i.isCommand = true) (hn : u.inflight = none) (h : P u) (he : exec i u = .next t) : P t := by
  cases hs : i.isSession
  · rcases exec_line_cases i u hc hs with ⟨st, h'⟩ | ⟨hl, l, p, h'⟩ | ⟨hl, l, p, h'⟩ | ⟨b, h'⟩ | h' <;>
      rw [h'] at he <;> injection he with he <;> subst he
    · exact k.respond _ _ h hn
    · exact k.poll _ (k.acquire _ _ _ h hn hl)
    · exact k.poll _ (k.set _ _ _ h hn hl)
    · exact k.respond _ _ (k.polarity _ _ h) hn
    · refine k.respond _ _ (k.release _ h hn) ?_
      rcases u.releaseLine_cases with ⟨-, h⟩ | ⟨-, h⟩ <;> rw [h] <;> exact hn
  · rcases exec_session_cases i u hs with ⟨st, -, h'⟩ | ⟨m, md, r, v, hm, h'⟩ <;>
      rw [h'] at he <;> injection he with he <;> subst he
    · exact k.respond _ _ h hn
    · exact k.poll _ (k.session _ _ _ _ _ h hn hm)

/-- The step induction, packaged once. -/
theorem KeptByParts.step {P : State → Prop} (k : KeptByParts P) {s t : State} (h : P s)
    (hst : Sys2Proof.Machine.step s = .next t) : P t := by
  rcases step_cases hst with rfl | ⟨rest, hn, rfl⟩ | ⟨rest, -, hn, rfl⟩ | ⟨rest, r, v, rfl⟩ | ⟨rest, i, hc, he⟩ |
    ⟨rest, i, hc, hn, he⟩
  · exact k.poll _ h
  · exact k.respond _ _ (k.inbox _ _ h) hn
  · exact k.rst _ (k.inbox _ _ h) hn
  · exact k.port _ _ _ (k.inbox _ _ h)
  · obtain ⟨r, v, h'⟩ := exec_frame_cases i { s with inbox := rest } hc
    rw [h'] at he
    injection he with he
    subst he
    exact k.port _ _ _ (k.inbox _ _ h)
  · exact k.command i { s with inbox := rest } t hc hn (k.inbox _ _ h) he

/-! Readings of a trace over an append -/

theorem settled_append (ms : Nat) (a b : List Event) (ha : settled ms a = true) (hb : settled ms b = true) :
    settled ms (a ++ b) = true := by
  induction a using settled.induct with
  | _ => simp_all [settled]

theorem tracePhys_append (t evs : List Event) : tracePhys (t ++ evs) = evs.foldl physAfter (tracePhys t) :=
  List.foldl_append

theorem traceHandle_append (t evs : List Event) :
    traceHandle (t ++ evs) = evs.foldl handleAfter (traceHandle t) :=
  List.foldl_append

/-- A breach of the line's protocol is never mended. -/
theorem foldl_handleAfter_none (t : List Event) : t.foldl handleAfter none = none := by
  induction t with
  | nil => rfl
  | cons x t ih => simpa [handleAfter] using ih

end Sys2Proof.Machine
end

