-- ==== Sys2Proof/Laws/PerInstr.lean ====
section
/-! SUPPORT. The family `TableRow`: the word the encoder gives an instruction lies in the instruction's row of
spec/opcode_table.json. -/

namespace Sys2Proof.Laws.TableRow

open Sys2Proof

/-- The encoded word has its row's width and its row's bits under the row's mask. -/
def Statement (i : Instr) : Prop := (encode i).ofRow (tableRow i)

/-- A mask that keeps the bits from `k` up keeps the word's value above `2 ^ k`. -/
theorem and_high_mask {n k : Nat} (mask : BitVec n) (hm : ∀ j : Fin n, mask.getLsbD j = decide (k ≤ j)) (w : BitVec n) :
    w &&& mask = BitVec.ofNat n (w.toNat / 2 ^ k * 2 ^ k) := by
  have hs : w &&& mask = (w >>> k) <<< k := by
    ext j hj
    have hm' := hm ⟨j, hj⟩
    simp only [BitVec.getLsbD_eq_getElem hj] at hm'
    simp only [BitVec.getElem_and, hm', BitVec.getElem_shiftLeft]
    by_cases h : k ≤ j
    · simp [h, BitVec.getLsbD_eq_getElem, hj, show ¬ j < k by omega]
    · simp [h, show j < k by omega]
  rw [hs]
  apply BitVec.eq_of_toNat_eq
  simp only [BitVec.toNat_shiftLeft, BitVec.toNat_ushiftRight, BitVec.toNat_ofNat, Nat.shiftRight_eq_div_pow,
    Nat.shiftLeft_eq]

/-- The mask of the command rows keeps OP. -/
theorem and_op_mask (w : CmdWord) :
    w &&& BitVec.ofNat 32 0xF0000000 = BitVec.ofNat 32 (w.toNat / 2 ^ 28 * 2 ^ 28) :=
  and_high_mask _ (by decide) w

/-- The mask of the single-byte frame rows keeps all but the value and the checksum byte. -/
theorem and_byte_mask (w : FrameWord) :
    w &&& BitVec.ofNat 48 0xFFFFFFFF0000 = BitVec.ofNat 48 (w.toNat / 2 ^ 16 * 2 ^ 16) :=
  and_high_mask _ (by decide) w

/-- The mask of the 16-bit frame rows keeps the header and the register id. -/
theorem and_half_mask (w : FrameWord) :
    w &&& BitVec.ofNat 48 0xFFFFFF000000 = BitVec.ofNat 48 (w.toNat / 2 ^ 24 * 2 ^ 24) :=
  and_high_mask _ (by decide) w

/-- A command word lies in the row of its opcode. -/
theorem cmd_row (op : Nat) (ch : BitVec 4) (data : BitVec 24) (pattern : Nat) (hop : op < 16)
    (hp : pattern = op * 2 ^ 28) :
    (cmdWord (BitVec.ofNat 4 op) ch data) &&& BitVec.ofNat 32 0xF0000000 = BitVec.ofNat 32 pattern := by
  have hc := ch.isLt
  have hd := data.isLt
  have hq : (op % 2 ^ 4 * 2 ^ 28 + ch.toNat * 2 ^ 24 + data.toNat) / 2 ^ 28 * 2 ^ 28 = op * 2 ^ 28 := by omega
  rw [and_op_mask, cmdWord_toNat, BitVec.toNat_ofNat, hp, hq]

theorem setmode (ch : BitVec 4) (data : BitVec 24) : Statement (.setmode ch data) :=
  ⟨rfl, cmd_row 1 ch data _ (by decide) rfl⟩
theorem ench (ch : BitVec 4) (data : BitVec 24) : Statement (.ench ch data) :=
  ⟨rfl, cmd_row 2 ch data _ (by decide) rfl⟩
theorem disch (ch : BitVec 4) (data : BitVec 24) : Statement (.disch ch data) :=
  ⟨rfl, cmd_row 3 ch data _ (by decide) rfl⟩
theorem setang (ch : BitVec 4) (data : BitVec 24) : Statement (.setang ch data) :=
  ⟨rfl, cmd_row 4 ch data _ (by decide) rfl⟩
theorem setfreq (ch : BitVec 4) (data : BitVec 24) : Statement (.setfreq ch data) :=
  ⟨rfl, cmd_row 5 ch data _ (by decide) rfl⟩
theorem reset (ch : BitVec 4) (data : BitVec 24) : Statement (.reset ch data) :=
  ⟨rfl, cmd_row 6 ch data _ (by decide) rfl⟩
theorem setbaud (ch : BitVec 4) (data : BitVec 24) : Statement (.setbaud ch data) :=
  ⟨rfl, cmd_row 7 ch data _ (by decide) rfl⟩
theorem linit (ch : BitVec 4) (data : BitVec 24) : Statement (.linit ch data) :=
  ⟨rfl, cmd_row 8 ch data _ (by decide) rfl⟩
theorem lon (ch : BitVec 4) (data : BitVec 24) : Statement (.lon ch data) :=
  ⟨rfl, cmd_row 9 ch data _ (by decide) rfl⟩
theorem loff (ch : BitVec 4) (data : BitVec 24) : Statement (.loff ch data) :=
  ⟨rfl, cmd_row 10 ch data _ (by decide) rfl⟩
theorem lsetpol (ch : BitVec 4) (data : BitVec 24) : Statement (.lsetpol ch data) :=
  ⟨rfl, cmd_row 11 ch data _ (by decide) rfl⟩
theorem lrel (ch : BitVec 4) (data : BitVec 24) : Statement (.lrel ch data) :=
  ⟨rfl, cmd_row 12 ch data _ (by decide) rfl⟩

/-- A frame word of a single-byte register lies in the row of its register id. -/
theorem byte_row (reg value ck : Byte) (pattern : Nat)
    (hp : pattern = 0x57 * 2 ^ 40 + 0x68 * 2 ^ 32 + reg.toNat * 2 ^ 24) :
    (frameWord reg 0x00 value ck) &&& BitVec.ofNat 48 0xFFFFFFFF0000 = BitVec.ofNat 48 pattern := by
  rw [and_byte_mask, frameWord, Frame.toBits_toNat]
  have := value.isLt
  have := ck.isLt
  have h0 : BitVec.toNat (0x00 : Byte) = 0 := rfl
  have h1 : BitVec.toNat (0x57 : Byte) = 0x57 := rfl
  have h2 : BitVec.toNat (0x68 : Byte) = 0x68 := rfl
  dsimp only
  rw [h0, h1, h2, hp]
  exact congrArg _ (by omega)

/-- A frame word of a 16-bit register lies in the row of its register id. -/
theorem half_row (reg hi lo ck : Byte) (pattern : Nat)
    (hp : pattern = 0x57 * 2 ^ 40 + 0x68 * 2 ^ 32 + reg.toNat * 2 ^ 24) :
    (frameWord reg hi lo ck) &&& BitVec.ofNat 48 0xFFFFFF000000 = BitVec.ofNat 48 pattern := by
  rw [and_half_mask, frameWord, Frame.toBits_toNat]
  have := hi.isLt
  have := lo.isLt
  have := ck.isLt
  have h1 : BitVec.toNat (0x57 : Byte) = 0x57 := rfl
  have h2 : BitVec.toNat (0x68 : Byte) = 0x68 := rfl
  dsimp only
  rw [h1, h2, hp]
  exact congrArg _ (by omega)

theorem frmMode (value ck : Byte) : Statement (.frmMode value ck) := ⟨rfl, byte_row 0x01 value ck _ rfl⟩
theorem frmChannelEnable (value ck : Byte) : Statement (.frmChannelEnable value ck) := ⟨rfl, byte_row 0x02 value ck _ rfl⟩
theorem frmAngle1 (value ck : Byte) : Statement (.frmAngle1 value ck) := ⟨rfl, byte_row 0x03 value ck _ rfl⟩
theorem frmAngle2 (value ck : Byte) : Statement (.frmAngle2 value ck) := ⟨rfl, byte_row 0x04 value ck _ rfl⟩
theorem frmFrequency (value ck : Byte) : Statement (.frmFrequency value ck) := ⟨rfl, byte_row 0x05 value ck _ rfl⟩
theorem frmReset (param : Half) (ck : Byte) : Statement (.frmReset param ck) := ⟨rfl, half_row 0x06 _ _ ck _ rfl⟩
theorem frmBaudrate (param : Half) (ck : Byte) : Statement (.frmBaudrate param ck) := ⟨rfl, half_row 0x07 _ _ ck _ rfl⟩

end Sys2Proof.Laws.TableRow
end

