-- ==== Sys2Proof/Tests/Slice0.lean ====
section
/-! SUPPORT. The model's own tests: ill-formed terms refused by each check of WellFormed, words written out from the spec's
encodings, one-step results from spec/95_test_vectors.md, and witnesses that the statements' hypotheses can be met. -/

namespace Sys2Proof.Tests

open Sys2Proof Sys2Proof.Machine

/-! ## Helpers -/

/-- The configuration of spec/95_test_vectors.md, with the illustrative table of S-36 and S-37. -/
def cfgOf (p : Cksum) : Config :=
  { cksum := p, baudTable := [(115200, 0x0001), (9600, 0x0000)], settleMs := 100, lineActiveLow := false,
    devAlInit := true, chipId := ⟨7⟩, lineOffset := 26 }

/-- A fresh block whose sink will say `sink`, whose capability `acq` and `set`, and whose settle timer expires at once. -/
def block (p : Cksum) (sink : List (Option IoAnswer)) (acq : List (Option AcqAnswer)) (set : List (Option IoAnswer)) :
    State :=
  { State.construct (cfgOf p) with env := { sink := sink, acquire := acq, set := set, timer := [0, 0], polls := 0 } }

/-- A fresh block under XOR whose agents all answer Ok twice. -/
def ready : State := block .xor [some .ok, some .ok] [some .ok, some .ok] [some .ok, some .ok]

/-- `ready` with the line in INIT at a level, as after the LINIT that drives it. -/
def held (l : Level) (p : Phys) : State :=
  { ready with line := .init l, lastPhys := some p, trace := [.gacq ⟨7⟩ 26 p .ok], rsp := some .ok, responses := [.ok] }

def nextOf : Host.Outcome State Fault Refusal → Option State
  | .next t    => some t
  | .fault _   => none
  | .refused _ => none

/-- The events logged and the response, of an outcome. -/
def seen (o : Host.Outcome State Fault Refusal) : Option (List Event × Option Status) :=
  (nextOf o).map fun t => (t.trace, t.rsp)

/-- What `i` leaves of the session: the events, the response, the mask and the last mode. -/
def session (i : Instr) (s : State) : Option (List Event × Option Status × BitVec 8 × Option Mode) :=
  (nextOf (exec i s)).map fun t => (t.trace, t.rsp, t.mask, t.lastMode)

/-- The events, the response, the line, the last physical level and the polarity. -/
structure LineSeen where
  trace    : List Event
  rsp      : Option Status
  line     : Line
  lastPhys : Option Phys
  devAl    : Bool
  deriving DecidableEq, Repr

/-- What `i` leaves of the line. -/
def lineSeen (i : Instr) (s : State) : Option LineSeen :=
  (nextOf (exec i s)).map fun t => ⟨t.trace, t.rsp, t.line, t.lastPhys, t.devAl⟩

/-- What a frame row leaves on the codec port, under a policy. -/
def port (p : Cksum) (i : Instr) : Option (Bool × Option FrameWord) :=
  (nextOf (exec i (block p [] [] []))).map fun t => (t.encOk, t.encFrame)

/-- The frame of six bytes. -/
def fr (register paramHigh paramLow checksum : Byte) : Frame := ⟨0x57, 0x68, register, paramHigh, paramLow, checksum⟩

/-! ## WellFormed refuses an ill-formed term for each check -/

theorem test_wf_reserved_ch :
    (Instr.setmode 1 0).wf .xor = false ∧ (Instr.setfreq 1 50).wf .xor = false ∧ (Instr.reset 15 0).wf .xor = false ∧
    (Instr.setbaud 2 9600).wf .xor = false ∧ (Instr.linit 1 0).wf .xor = false ∧ (Instr.lon 1 0).wf .xor = false ∧
    (Instr.loff 1 0).wf .xor = false ∧ (Instr.lsetpol 1 0).wf .xor = false := by decide

theorem test_wf_reserved_data :
    (Instr.ench 1 1).wf .xor = false ∧ (Instr.disch 2 0x800000).wf .xor = false ∧ (Instr.lon 0 1).wf .xor = false ∧
    (Instr.loff 0 1).wf .xor = false := by decide

theorem test_wf_channel :
    (Instr.ench 0 0).wf .xor = false ∧ (Instr.ench 3 0).wf .xor = false ∧ (Instr.disch 15 0).wf .xor = false ∧
    (Instr.setang 0 0).wf .xor = false ∧ (Instr.setang 3 10).wf .xor = false := by decide

theorem test_wf_value :
    (Instr.setmode 0 2).wf .xor = false ∧ (Instr.setang 1 180).wf .xor = false ∧
    (Instr.reset 0 0x10000).wf .xor = false ∧ (Instr.linit 0 2).wf .xor = false ∧
    (Instr.lsetpol 0 2).wf .xor = false := by decide

theorem test_wf_checksum :
    (Instr.frmMode 0x00 0xC0).wf .xor = false ∧ (Instr.frmChannelEnable 0x01 0xC2).wf .xor = false ∧
    (Instr.frmAngle1 0x5A 0x1C).wf .xor = false ∧ (Instr.frmAngle2 0xB3 0x76).wf .xor = false ∧
    (Instr.frmFrequency 0x3C 0x06).wf .sum = false ∧ (Instr.frmReset 0x1234 0x1F).wf .sum = false ∧
    (Instr.frmBaudrate 0x0001 0x39).wf .sum = false := by decide

theorem test_wf_admits :
    (Instr.setmode 0 1).wf .xor = true ∧ (Instr.setang 2 179).wf .sum = true ∧ (Instr.reset 0 0xFFFF).wf .xor = true ∧
    (Instr.lrel 5 0x123).wf .xor = true ∧ (Instr.frmReset 0x1234 0x1F).wf .xor = true ∧
    (Instr.frmReset 0x1234 0x0B).wf .sum = true := by decide

/-! ## Decoding: each row's word written out from the spec (R106 for the commands, V1 to V32 for the frames) -/

theorem test_decode_session :
    decodeTableWord 32 0x10000001 = some (.setmode 0 1) ∧ decodeTableWord 32 0x22000000 = some (.ench 2 0) ∧
    decodeTableWord 32 0x31000000 = some (.disch 1 0) ∧ decodeTableWord 32 0x4100005A = some (.setang 1 90) ∧
    decodeTableWord 32 0x5000003C = some (.setfreq 0 60) ∧ decodeTableWord 32 0x60001234 = some (.reset 0 0x1234) ∧
    decodeTableWord 32 0x7001C200 = some (.setbaud 0 115200) := by decide

theorem test_decode_line :
    decodeTableWord 32 0x80000001 = some (.linit 0 1) ∧ decodeTableWord 32 0x90000000 = some (.lon 0 0) ∧
    decodeTableWord 32 0xA0000000 = some (.loff 0 0) ∧ decodeTableWord 32 0xB0000001 = some (.lsetpol 0 1) ∧
    decodeTableWord 32 0xC5000123 = some (.lrel 5 0x123) := by decide

theorem test_decode_frames :
    decodeTableWord 48 0x57680100013F = some (.frmMode 0x01 0x3F) ∧
    decodeTableWord 48 0x57680200033E = some (.frmChannelEnable 0x03 0x3E) ∧
    decodeTableWord 48 0x576803005A66 = some (.frmAngle1 0x5A 0x66) ∧
    decodeTableWord 48 0x57680400B388 = some (.frmAngle2 0xB3 0x88) ∧
    decodeTableWord 48 0x576805003208 = some (.frmFrequency 0x32 0x08) ∧
    decodeTableWord 48 0x57680612341F = some (.frmReset 0x1234 0x1F) ∧
    decodeTableWord 48 0x576807010039 = some (.frmBaudrate 0x0100 0x39) := by decide

/-- R103 (illegal opcodes), R97 (undefined ids), R91 (headers), R95 (high byte of a single-byte register). -/
theorem test_decode_rejects :
    decodeTableWord 32 0x0F000000 = none ∧ decodeTableWord 32 0xD0000000 = none ∧
    decodeTableWord 32 0xE0000000 = none ∧ decodeTableWord 32 0xFFFFFFFF = none ∧
    decode (.frame48 0x576800000000) = .error .undefinedRegister ∧
    decode (.frame48 0x576808000000) = .error .undefinedRegister ∧
    decode (.frame48 0x566803005A66) = .error .badHeader ∧ decode (.frame48 0x576903005A66) = .error .badHeader ∧
    decode (.frame48 0x576803015A66) = .error .paramHighNotZero ∧
    decodeFrameBytes [0x57, 0x68, 0x03, 0x00, 0x5A] = .error .frameLength := by decide

/-- The encoder gives the same words (R106, V10, V26). -/
theorem test_encode_words :
    encode (.setang 1 90) = .cmd32 0x4100005A ∧ encode (.lrel 15 0xFFFFFF) = .cmd32 0xCFFFFFFF ∧
    encode (.frmAngle1 0x5A 0x66) = .frame48 0x576803005A66 ∧
    encode (.frmReset 0x1234 0x1F) = .frame48 0x57680612341F := by decide

/-! ## The codec (spec/95_test_vectors.md section 2.1) -/

/-- V1, V3 under both policies. -/
theorem test_frmMode :
    port .xor (.frmMode 0x00 0x00) = some (true, some 0x57680100003E) ∧
    port .sum (.frmMode 0xFF 0x00) = some (true, some 0x57680100FFBF) := by decide

/-- V4, V7. -/
theorem test_frmChannelEnable :
    port .xor (.frmChannelEnable 0x00 0x00) = some (true, some 0x57680200003D) ∧
    port .sum (.frmChannelEnable 0x03 0x00) = some (true, some 0x5768020003C4) := by decide

/-- V10, V13: the codec checks no range (R141). -/
theorem test_frmAngle1 :
    port .sum (.frmAngle1 0x5A 0x00) = some (true, some 0x576803005A1C) ∧
    port .xor (.frmAngle1 0xC8 0x00) = some (true, some 0x57680300C8F4) := by decide

/-- V17, V18. -/
theorem test_frmAngle2 :
    port .xor (.frmAngle2 0xB2 0x00) = some (true, some 0x57680400B289) ∧
    port .sum (.frmAngle2 0xB3 0x00) = some (true, some 0x57680400B376) := by decide

/-- V19, V20. -/
theorem test_frmFrequency :
    port .xor (.frmFrequency 0x32 0x00) = some (true, some 0x576805003208) ∧
    port .sum (.frmFrequency 0x3C 0x00) = some (true, some 0x576805003C00) := by decide

/-- V25, V28. -/
theorem test_frmReset :
    port .xor (.frmReset 0x0100 0x00) = some (true, some 0x576806010038) ∧
    port .sum (.frmReset 0xFFFF 0x00) = some (true, some 0x576806FFFFC3) := by decide

/-- V31, V32. -/
theorem test_frmBaudrate :
    port .xor (.frmBaudrate 0x0100 0x00) = some (true, some 0x576807010039) ∧
    port .sum (.frmBaudrate 0xFFFF 0x00) = some (true, some 0x576807FFFFC4) := by decide

/-- V33 to V39: the port's answers at the edges of R131. -/
theorem test_codec_port_edges :
    codecEncode .sum 0x03 0x005A = some (fr 0x03 0x00 0x5A 0x1C) ∧ codecEncode .xor 0x00 0x0000 = none ∧
    codecEncode .xor 0x08 0x0000 = none ∧ codecEncode .xor 0xFF 0x0000 = none ∧ codecEncode .xor 0x01 0x0100 = none ∧
    codecEncode .xor 0x05 0x1234 = none ∧ codecEncode .xor 0x06 0xFFFF = some (fr 0x06 0xFF 0xFF 0x39) := by decide

/-! ## The Device Session (spec/95_test_vectors.md section 2.3) -/

/-- S-2, S-3. -/
theorem test_setmode :
    session (.setmode 0 1) ready =
      some ([.frame (fr 0x01 0x00 0x01 0x3F) .ok, .settle 100], some .ok, 0x00, some .switch) ∧
    session (.setmode 0 2) ready = some ([], some .invalidParam, 0x00, none) := by decide

/-- S-4: the last mode is kept when the write fails (R183). -/
theorem test_setmode_ioErr :
    session (.setmode 0 1) { block .sum [some .ioErr] [] [] with lastMode := some .phaseAngle } =
      some ([.frame (fr 0x01 0x00 0x01 0xC1) .ioErr], some .ioError, 0x00, some .switch) := by decide

/-- S-6. -/
theorem test_ench :
    session (.ench 2 0) { ready with mask := 0x01 } =
      some ([.frame (fr 0x02 0x00 0x03 0x3E) .ok, .settle 100], some .ok, 0x03, none) := by decide

/-- S-12, S-14. -/
theorem test_ench_edges :
    session (.ench 3 0) ready = some ([], some .invalidParam, 0x00, none) ∧
    session (.ench 1 0) (block .xor [some .ioErr] [] []) =
      some ([.frame (fr 0x02 0x00 0x01 0x3C) .ioErr], some .ioError, 0x01, none) := by decide

/-- S-8, S-10. -/
theorem test_disch :
    session (.disch 1 0) { ready with mask := 0x03 } =
      some ([.frame (fr 0x02 0x00 0x02 0x3F) .ok, .settle 100], some .ok, 0x02, none) ∧
    session (.disch 2 0) ready =
      some ([.frame (fr 0x02 0x00 0x00 0x3D) .ok, .settle 100], some .ok, 0x00, none) := by decide

/-- S-13. -/
theorem test_disch_channel :
    session (.disch 15 0) { ready with mask := 0x03 } = some ([], some .invalidParam, 0x03, none) := by decide

/-- S-17, S-18. -/
theorem test_setang :
    seen (exec (.setang 1 179) ready) = some ([.frame (fr 0x03 0x00 0xB3 0x8F) .ok, .settle 100], some .ok) ∧
    seen (exec (.setang 2 179) ready) = some ([.frame (fr 0x04 0x00 0xB3 0x88) .ok, .settle 100], some .ok) := by decide

/-- S-20, S-21, S-22, S-23. -/
theorem test_setang_refused :
    seen (exec (.setang 1 180) ready) = some ([], some .invalidParam) ∧
    seen (exec (.setang 1 0xFFFFFF) ready) = some ([], some .invalidParam) ∧
    seen (exec (.setang 3 10) ready) = some ([], some .invalidParam) ∧
    seen (exec (.setang 0 0) ready) = some ([], some .invalidParam) := by decide

/-- S-26. -/
theorem test_setfreq :
    seen (exec (.setfreq 0 60) ready) = some ([.frame (fr 0x05 0x00 0x3C 0x06) .ok, .settle 100], some .ok) := by decide

/-- S-27, S-29, D-8. -/
theorem test_setfreq_edges :
    seen (exec (.setfreq 0 55) ready) = some ([], some .ok) ∧ seen (exec (.setfreq 0 306) ready) = some ([], some .ok) ∧
    seen (exec (.setfreq 1 50) ready) = some ([], some .invalidParam) := by decide

/-- S-31. -/
theorem test_reset :
    session (.reset 0 0x1234) { ready with mask := 0x03 } =
      some ([.frame (fr 0x06 0x12 0x34 0x1F) .ok, .settle 100], some .ok, 0x03, none) := by decide

/-- S-32, S-33. -/
theorem test_reset_edges :
    seen (exec (.reset 0 65535) ready) = some ([.frame (fr 0x06 0xFF 0xFF 0x39) .ok, .settle 100], some .ok) ∧
    seen (exec (.reset 0 0x10000) ready) = some ([], some .invalidParam) := by decide

/-- S-36, S-35. -/
theorem test_setbaud :
    seen (exec (.setbaud 0 115200) ready) = some ([.frame (fr 0x07 0x00 0x01 0x39) .ok, .settle 100], some .ok) ∧
    seen (exec (.setbaud 0 19200) ready) = some ([], some .ok) := by decide

/-- S-37. -/
theorem test_setbaud_ioErr :
    seen (exec (.setbaud 0 9600) (block .xor [some .ioErr] [] [])) =
      some ([.frame (fr 0x07 0x00 0x00 0x38) .ioErr], some .ioError) := by decide

/-! ## The Output Line (spec/95_test_vectors.md section 2.4) -/

/-- O-1, O-3 (line_al 1). -/
theorem test_linit :
    lineSeen (.linit 0 0) ready =
      some ⟨[.gacq ⟨7⟩ 26 .low .ok], some .ok, .init .inactive, some .low, true⟩ ∧
    lineSeen (.linit 0 1) { ready with cfg := { cfgOf .xor with lineActiveLow := true } } =
      some ⟨[.gacq ⟨7⟩ 26 .low .ok], some .ok, .init .active, some .low, true⟩ := by decide

/-- O-6, O-9, O-10. -/
theorem test_linit_edges :
    lineSeen (.linit 0 1) (block .xor [] [some .acqErr] []) =
      some ⟨[.gacq ⟨7⟩ 26 .high .acqErr], some .acqError, .uninit, none, true⟩ ∧
    lineSeen (.linit 0 1) { ready with line := .released } = some ⟨[], some .acqError, .released, none, true⟩ ∧
    lineSeen (.linit 0 2) ready = some ⟨[], some .invalidParam, .uninit, none, true⟩ := by decide

/-- O-11, O-18. -/
theorem test_lon :
    lineSeen (.lon 0 0) { held .inactive .high with trace := [] } =
      some ⟨[.gset .low .ok], some .ok, .init .active, some .low, true⟩ ∧
    lineSeen (.lon 0 0) ready = some ⟨[], some .notInit, .uninit, none, true⟩ := by decide

/-- O-17, D-9. -/
theorem test_lon_edges :
    lineSeen (.lon 0 0) { block .xor [] [] [some .ioErr] with line := .init .inactive, lastPhys := some .high } =
      some ⟨[.gset .low .ioErr], some .ioError, .init .inactive, some .high, true⟩ ∧
    lineSeen (.lon 0 1) ready = some ⟨[], some .invalidParam, .uninit, none, true⟩ := by decide

/-- O-12, O-19. -/
theorem test_loff :
    lineSeen (.loff 0 0) { held .active .low with trace := [] } =
      some ⟨[.gset .high .ok], some .ok, .init .inactive, some .high, true⟩ ∧
    lineSeen (.loff 0 0) { ready with line := .released } = some ⟨[], some .notInit, .released, none, true⟩ := by decide

/-- O-16: `line_al` 1 is not applied. -/
theorem test_loff_line_attribute :
    lineSeen (.loff 0 0) { held .active .high with
        trace := [], devAl := false, cfg := { cfgOf .xor with lineActiveLow := true } } =
      some ⟨[.gset .low .ok], some .ok, .init .inactive, some .low, false⟩ := by decide

/-- O-20, O-23. -/
theorem test_lsetpol :
    lineSeen (.lsetpol 0 0) { held .active .low with trace := [] } =
      some ⟨[], some .ok, .init .active, some .low, false⟩ ∧
    lineSeen (.lsetpol 0 0) { ready with line := .released } = some ⟨[], some .ok, .released, none, false⟩ := by decide

/-- O-24. -/
theorem test_lsetpol_value :
    lineSeen (.lsetpol 0 2) ready = some ⟨[], some .invalidParam, .uninit, none, true⟩ := by decide

/-- O-25. -/
theorem test_lrel :
    lineSeen (.lrel 0 0) { held .active .high with trace := [] } =
      some ⟨[.grel], some .ok, .released, some .high, true⟩ := by decide

/-- O-26, D-12. -/
theorem test_lrel_edges :
    lineSeen (.lrel 0 0) { ready with line := .released } = some ⟨[], some .ok, .released, none, true⟩ ∧
    lineSeen (.lrel 15 0xFFFFFF) ready = some ⟨[], some .ok, .released, none, true⟩ := by decide

/-! ## The step -/

/-- Each row's word runs as the first instruction after reset. -/
theorem test_withFetchWord_runs :
    ([0x10000001, 0x21000000, 0x31000000, 0x4100005A, 0x50000032, 0x60000064, 0x70002580, 0x80000000, 0x90000000,
      0xA0000000, 0xB0000001, 0xC0000000, 0x00000000].all
        fun w => (nextOf (step (State.reset.withFetchWord 32 w))).isSome) = true ∧
    ([0x57680100013F, 0x57680200033E, 0x576803005A66, 0x57680400B388, 0x576805003208, 0x57680612341F,
      0x576807010039].all fun w => (nextOf (step (State.reset.withFetchWord 48 w))).isSome) = true := by decide

/-- D-1, D-4: ILLEGAL_CMD. -/
theorem test_step_illegal :
    seen (step { ready with inbox := [.word (.cmd32 0x00000000)] }) = some ([], some .illegalCmd) ∧
    seen (step { ready with inbox := [.word (.cmd32 0xFFFFFFFF)] }) = some ([], some .illegalCmd) := by decide

/-- A block whose SETMODE waits for the sink, with an ENCH presented. -/
def waiting : State :=
  { block .xor [none, some .ok] [] [] with
    lastMode := some .switch, inflight := some (.sinkWrite (fr 0x01 0x00 0x01 0x3F)),
    inbox := [.word (.cmd32 0x21000000)] }

/-- R46, R281: while the sink does not answer the block stays busy and the next command stays presented. -/
theorem test_step_waits :
    (nextOf (step waiting)).map (fun t => (t.busy, t.inbox.length, t.trace, t.rsp)) =
      some (true, 1, [], none) := by decide

/-- A block whose settle timer takes two steps of its own after a write. -/
def slow : State := { ready with env := { ready.env with timer := [2] } }

/-- R45, R160: the frame is written, the timer runs, the block is busy and has not answered. -/
theorem test_settle_runs :
    (nextOf (exec (.setmode 0 0) slow)).map (fun t => (t.busy, t.trace, t.rsp, t.inflight)) =
      some (true, [.frame (fr 0x01 0x00 0x00 0x3E) .ok], none, some (.settle 1)) := by decide

/-- The block of `slow` in its settle wait, one step before the timer expires. -/
def settling : State :=
  { slow with
    lastMode := some .phaseAngle, trace := [.frame (fr 0x01 0x00 0x00 0x3E) .ok], inflight := some (.settle 0),
    inbox := [.word (.cmd32 0x21000000)] }

/-- R45, R84: the timer expires, the response comes, and the command presented meanwhile is still to be taken. -/
theorem test_settle_expires :
    (nextOf (step settling)).map (fun t => (t.busy, t.trace, t.rsp, t.inbox.length)) =
      some (false, [.frame (fr 0x01 0x00 0x00 0x3E) .ok, .settle 100], some .ok, 1) := by decide

/-- R47: the codec port answers during the settle wait. -/
theorem test_settle_codec :
    (nextOf (step { settling with inbox := [.codec 0x03 0x005A] })).map (fun t => (t.inflight, t.encFrame)) =
      some (some (.settle 0), some 0x576803005A66) := by decide

/-- R47: the codec port answers while busy. -/
theorem test_step_codec_busy :
    (nextOf (step { waiting with inbox := [.codec 0x06 0xFFFF] })).map (fun t => (t.busy, t.encOk, t.encFrame)) =
      some (true, true, some 0x576806FFFF39) := by decide

/-- X-2: RST from INIT releases the line first. -/
theorem test_step_rst :
    (nextOf (step { held .active .low with devAl := false, inbox := [.rst] })).map
        (fun t => (t.line, t.lastPhys, t.devAl)) = some (.uninit, none, true) ∧
    (nextOf (step { held .active .low with devAl := false, inbox := [.rst] })).map (fun t => (t.trace, t.retired)) =
      some ([], [[.gacq ⟨7⟩ 26 .low .ok, .grel]]) := by decide

/-- R97, R131: a 48-bit word that is no frame is given no frame. -/
theorem test_step_not_a_frame :
    nextOf (step { ready with inbox := [.word (.frame48 0x576808000000)] }) = none := by decide

/-- R50. -/
theorem test_obs :
    (held .active .low).obs =
      { mask := 0x00, mode := 0b00, lstate := 1, level := some 1, devAl := true, lineAl := false, phys := 0b10,
        busy := false } := by decide

/-! ## The assembler and the ramp -/

/-- R106: text to words. -/
theorem test_assemble_lines :
    assembleLine "setang 1, 90 ; ch 1".toList = .ok [.cmd32 0x4100005A] ∧
    assembleLine "setmode switch".toList = .ok [.cmd32 0x10000001] ∧
    assembleLine "reset 0x1234".toList = .ok [.cmd32 0x60001234] ∧
    assembleLine "linit active".toList = .ok [.cmd32 0x80000001] ∧
    assembleLine "ench 16".toList = .error .chDoesNotFit ∧
    assembleLine "setfreq 0x1000000".toList = .error .dataDoesNotFit := by decide

/-- R107. -/
theorem test_assemble_pseudo :
    Asm.on1.words = .ok [.cmd32 0x10000001, .cmd32 0x21000000] ∧
    Asm.off1.words = .ok [.cmd32 0x10000001, .cmd32 0x31000000] ∧
    Asm.shutdown.words =
      .ok [.cmd32 0x31000000, .cmd32 0x32000000, .cmd32 0xA0000000, .cmd32 0xC0000000] := by decide

/-- L1-5, corrected: the turning points. -/
theorem test_ramp :
    [0, 1, 178, 179, 180, 181, 357, 358, 359].map ramp = [0, 1, 178, 179, 179, 178, 2, 1, 0] ∧
    rampNext 359 = 0 ∧ (rampTick 180 false).map Asm.words =
      [.ok [.cmd32 0x410000B3], .ok [.cmd32 0x420000B3]] := by decide

/-! ## Witnesses: states and operands that meet the hypotheses of the statements, clause by clause, at the edges of their
ranges -/

/-- A block that has sent two frames and holds its line, with a third frame in flight and the next command presented. -/
def lived : State :=
  { block .xor [some .ok] [] [] with
    mask := 0x03, lastMode := some .phaseAngle, line := .init .active, lastPhys := some .low, rsp := some .ok,
    responses := [.ok, .ok, .ok, .ok],
    trace := [.frame (fr 0x02 0x00 0x01 0x3C) .ok, .settle 100, .gacq ⟨7⟩ 26 .high .ok, .gset .low .ok,
      .frame (fr 0x02 0x00 0x03 0x3E) .ok, .settle 100],
    inflight := some (.sinkWrite (fr 0x03 0x00 0x5A 0x66)), inbox := [.word (.cmd32 0xC0000000)] }

theorem lived_inv : lived.Inv where
  mask := by unfold State.MaskInRange; decide
  frames := by
    refine ⟨by decide, fun q h => ?_⟩
    obtain rfl : Request.sinkWrite (fr 0x03 0x00 0x5A 0x66) = q := Option.some.inj h
    decide
  settle := by unfold State.Settled; decide
  line := ⟨(by decide : traceHandle lived.trace = some .held), by decide, fun _ _ h => (nomatch h), fun _ _ h => (nomatch h)⟩
  response := by unfold State.ResponseRecorded; decide

/-- A block that has released its line, with LON presented. -/
def released : State :=
  { ready with
    line := .released, lastPhys := some .high, rsp := some .ok, responses := [.ok, .ok],
    trace := [.gacq ⟨7⟩ 26 .high .ok, .grel], inbox := [.word (.cmd32 0x90000000)] }

theorem released_inv : released.Inv where
  mask := by unfold State.MaskInRange; decide
  frames := ⟨by decide, fun _ h => (nomatch h)⟩
  settle := by unfold State.Settled; decide
  line := ⟨.inl (by decide : traceHandle released.trace = some .given), by decide, fun _ _ h => (nomatch h), fun _ _ h => (nomatch h)⟩
  response := by unfold State.ResponseRecorded; decide

/-- RstReleasesThenConstructs: idle in INIT, idle outside INIT, and busy. -/
theorem witness_rst :
    ({ held .active .low with inbox := [.rst] }.busy = false ∧ (held .active .low).line = .init .active) ∧
    ({ ready with inbox := [.rst] }.busy = false ∧ ready.line = .uninit) ∧
    { waiting with inbox := [.rst] }.busy = true := by decide

/-- ObservationPortShowsState: a state for each conditional line. -/
theorem witness_observation :
    (ready.lastMode = none ∧ ready.line = .uninit ∧ ready.obs.lstate ≠ 1 ∧ ready.lastPhys = none) ∧
    (lived.lastMode = some .phaseAngle ∧ lived.line = .init .active ∧ lived.lastPhys = some .low) ∧
    (waiting.lastMode = some .switch ∧ (held .inactive .high).line = .init .inactive) ∧
    (released.line = .released ∧ released.lastPhys = some .high) := by decide

/-- EncodeBytesInNumbers, FrameWordIsBigEndianByOffset: both parameter classes. -/
theorem witness_register_classes :
    Register.reset.wide = true ∧ Register.baudrate.wide = true ∧ Register.frequency.wide = false := by decide

/-- CodecPortAnswersEveryInput, EncodedFramesAreWellFormed: the edges of the valid inputs. -/
theorem witness_codec_port :
    { ready with encReg := 0x01, encParam := 0x00FF }.encOk = true ∧
    { ready with encReg := 0x05, encParam := 0x0100 }.encOk = false ∧
    { ready with encReg := 0x06, encParam := 0x0100 }.encOk = true ∧
    { ready with encReg := 0x07, encParam := 0xFFFF }.encOk = true ∧ { ready with encReg := 0x08 }.encOk = false ∧
    ready.encOk = false ∧ codecEncode .xor 0x01 0x00FF = some (fr 0x01 0x00 0xFF 0xC1) := by decide

/-- The three answers of each agent, for SendsFrame, AcquiresLine, SetsLine, LateAnswerCompletesCommand and
UnansweredCommandStaysInFlight. -/
theorem witness_answers :
    (ready.env.pollSink.1 = some .ok ∧ ready.env.pollAcquire.1 = some .ok ∧ ready.env.pollSet.1 = some .ok) ∧
    ((block .xor [some .ioErr] [] []).env.pollSink.1 = some .ioErr ∧
      (block .xor [] [some .acqErr] []).env.pollAcquire.1 = some .acqErr ∧
      (block .xor [] [] [some .ioErr]).env.pollSet.1 = some .ioErr) ∧
    ((block .xor [none] [] []).env.pollSink.1 = none ∧ (block .xor [] [none] []).env.pollAcquire.1 = none ∧
      (block .xor [] [] [none]).env.pollSet.1 = none) ∧
    (ready.env.pollSink.2.pollTimer.1 = 0 ∧ slow.env.pollSink.2.pollTimer.1 = 1 + 1) := by decide

/-- The operands where the clauses of the command statements meet. -/
theorem witness_operand_edges :
    ((1 : BitVec 24).toNat ≤ 1 ∧ 1 < (2 : BitVec 24).toNat ∧ (1 : BitVec 4) ≠ 0) ∧
    ((0 : BitVec 4) ≠ 1 ∧ (0 : BitVec 4) ≠ 2 ∧ (3 : BitVec 4) ≠ 1 ∧ (3 : BitVec 4) ≠ 2) ∧
    ((179 : BitVec 24).toNat ≤ 179 ∧ 179 < (180 : BitVec 24).toNat) ∧
    ((55 : BitVec 24) ≠ 50 ∧ (55 : BitVec 24) ≠ 60 ∧ (306 : BitVec 24) ≠ 50) ∧
    ((0xFFFF : BitVec 24).toNat ≤ 0xFFFF ∧ 0xFFFF < (0x10000 : BitVec 24).toNat) ∧
    ((cfgOf .xor).baudTable.lookup 115200 = some 0x0001 ∧ (cfgOf .xor).baudTable.lookup 19200 = none) := by decide

/-- EnchSendsFullMask's last clause, EnablingAccumulates, DisablingKeepsOtherChannel. -/
theorem witness_masks :
    ready.MaskInRange ∧ ready.mask &&& 0xFC = 0 ∧
    ready.env.pollSink = (some .ok, { ready.env with sink := [some .ok] }) ∧
    (nextOf (exec (.ench 1 0) ready)).map (fun t => t.mask) = some { ready with mask := 0x01 }.mask ∧
    { ready with mask := 0x01 }.env.pollSink.1 = some .ok ∧
    { ready with mask := 0x03 }.mask = 0x03 := by unfold State.MaskInRange; decide

/-- SessionCommandSendsAtMostOneFrame, SessionAndLineDoNotInteract, and the statements over all commands. -/
theorem witness_commands :
    (Instr.setmode 0 1).isSession = true ∧ (Instr.setbaud 0 9600).isSession = true ∧
    (Instr.lrel 0 0).isCommand = true ∧ (Instr.lrel 0 0).isSession = false ∧ (Instr.setmode 0 2).isCommand = true ∧
    (Instr.setmode 0 2).wf .xor = false ∧ firstFailingCheck ready (.setmode 0 2) = some .invalidParam ∧
    firstFailingCheck ready (.lon 0 0) = some .notInit ∧ firstFailingCheck released (.linit 0 1) = some .acqError ∧
    firstFailingCheck ready (.setmode 0 1) = none := by decide

/-- The line states of the line statements. -/
theorem witness_lines :
    ready.line = .uninit ∧ ready.line.held = false ∧ released.line ≠ .uninit ∧ released.line.held = false ∧
    (held .active .low).line.held = true ∧ (held .active .low).line ≠ .uninit := by decide

/-- ReleasedIsTerminal: an idle step, and a busy one with an RST waiting. -/
theorem witness_released :
    (released.LineAgrees ∧ released.line = .released ∧ ∃ t, step released = .next t) ∧
    ({ settling with line := .released, inbox := [.rst] }.LineAgrees ∧
      ∃ t, step { settling with line := .released, inbox := [.rst] } = .next t) :=
  ⟨⟨released_inv.line, rfl, _, rfl⟩,
   ⟨.inr (by decide : traceHandle settling.trace = some .fresh), by decide, fun _ _ h => (nomatch h),
    fun _ _ h => (nomatch h)⟩, _, rfl⟩

/-- IllegalOpcodesAnswerIllegalCmd: both ranges at their edges, and the legal opcodes beside them. -/
theorem witness_illegal :
    (0x0FFFFFFF : CmdWord).toNat / 2 ^ 28 = 0 ∧ 0xD ≤ (0xD0000000 : CmdWord).toNat / 2 ^ 28 ∧
    (0x10000000 : CmdWord).toNat / 2 ^ 28 = 1 ∧ (0xCFFFFFFF : CmdWord).toNat / 2 ^ 28 = 0xC ∧
    { ready with inbox := [.word (.cmd32 0xD0000000)] }.busy = false := by decide

/-- StepRunsPresentedCommand, StepRunsPresentedFrame, EncodeOfDecode. -/
theorem witness_presented :
    released.busy = false ∧ released.inbox = [.word (.cmd32 0x90000000)] ∧
    decode (.cmd32 0x90000000) = .ok (.lon 0 0) ∧
    { ready with inbox := [.word (.frame48 0x576803005A66)] }.inbox = [.word (.frame48 0x576803005A66)] ∧
    decode (.frame48 0x576803005A66) = .ok (.frmAngle1 0x5A 0x66) := by decide

/-- RstReleasesThenConstructs and LateAnswerCompletesCommand with an RST waiting, and the settle wait in flight. -/
theorem witness_settling :
    settling.busy = true ∧ settling.inflight = some (.settle 0) ∧ settling.inbox = [.word (.cmd32 0x21000000)] ∧
    { settling with inbox := [.rst] }.busy = true ∧
    { settling with inflight := some (.settle 3) }.inflight = some (.settle 3) := by decide

/-- A settle wait in flight meets the invariant: its SETTLE is owed. -/
theorem witness_owed : settling.Settled ∧ ∃ t, step settling = .next t :=
  ⟨by unfold State.Settled; decide, _, rfl⟩

/-- BusyHoldsNextCommand, BlockWaitsForHostOrAgent, LateAnswerCompletesCommand, CodecInputsAreTakenAnytime. -/
theorem witness_waiting :
    (waiting.busy = true ∧ waiting.inbox = [.word (.cmd32 0x21000000)] ∧
      waiting.inflight = some (.sinkWrite (fr 0x01 0x00 0x01 0x3F)) ∧ waiting.env.pollSink.1 = none) ∧
    (ready.inbox = [] ∧ ready.busy = false) ∧
    ({ block .xor [] [none] [] with inflight := some (.gpioAcquire .active .high) }.inbox = [] ∧
      (block .xor [] [none] []).env.pollAcquire.1 = none) ∧
    ({ block .xor [] [] [some .ok] with inflight := some (.gpioSet .active .low) }.inbox = [] ∧
      (block .xor [] [] [some .ok]).env.pollSet.1 = some .ok) ∧
    { waiting with inbox := [.codec 0x06 0xFFFF] }.inbox = [.codec 0x06 0xFFFF] := by decide

/-- DecoderAgreesWithOpcodeTable: words of a row, and one of none. -/
theorem witness_rows :
    InstrWord.ofRow (tableRow (.setmode 0 1)) (.cmd32 0x1ABCDEF0) ∧
    InstrWord.ofRow (tableRow (.frmReset 0 0)) (.frame48 0x576806FFFF39) ∧
    ¬ InstrWord.ofRow (tableRow (.frmMode 0 0)) (.frame48 0x576801010000) := by
  unfold InstrWord.ofRow; decide

/-- FrameWordsThatDecode: the edges of the register ids and of the high byte. -/
theorem witness_frame_words :
    (∃ i, decode (.frame48 0x57680100FF00) = .ok i) ∧ (∃ i, decode (.frame48 0x576807FFFF00) = .ok i) ∧
    decode (.frame48 0x576800000000) = .error .undefinedRegister ∧
    decode (.frame48 0x576808000000) = .error .undefinedRegister ∧
    decode (.frame48 0x576805010000) = .error .paramHighNotZero := ⟨⟨_, rfl⟩, ⟨_, rfl⟩, by decide⟩

/-- AssemblerPassesWhatFits: the edges of the two fields. -/
theorem witness_fields :
    (Asm.setang 15 0xFFFFFF).words = .ok [.cmd32 0x4FFFFFFF] ∧ (Asm.setang 16 0).words = .error .chDoesNotFit ∧
    (Asm.setang 1 0x1000000).words = .error .dataDoesNotFit ∧
    (Asm.setmode 0xFFFFFF).words = .ok [.cmd32 0x10FFFFFF] ∧ (Asm.linit 0x1000000).words = .error .dataDoesNotFit ∧
    (Asm.lsetpol 2).words = .ok [.cmd32 0xB0000002] := by decide

/-- The invariant statements over a step: a state that meets the whole invariant, with a frame in flight and answered. -/
theorem witness_invariant : lived.Inv ∧ (∃ t, step lived = .next t) ∧
    (nextOf (step lived)).map (fun t => t.trace.length) = some 8 := ⟨lived_inv, ⟨_, rfl⟩, by decide⟩

/-- EveryRunKeepsInvariant: a run of two steps that ends in a next state. -/
theorem witness_run : ∃ t, Sys2Proof.core.run 2
    { State.construct (cfgOf .xor) with inbox := [.word (.cmd32 0xB0000000), .rst] } = .next t := ⟨_, rfl⟩

/-- SettleBetweenFrames: the two frames of `lived`. -/
theorem witness_frames :
    lived.trace = [] ++ .frame (fr 0x02 0x00 0x01 0x3C) .ok ::
      [.settle 100, .gacq ⟨7⟩ 26 .high .ok, .gset .low .ok] ++ .frame (fr 0x02 0x00 0x03 0x3E) .ok ::
      [.settle 100] := by decide

/-- ReleaseIssuedAtMostOnce: a trace with a GREL. -/
theorem witness_release : released.Inv ∧ Event.grel ∈ released.trace := ⟨released_inv, by decide⟩

/-- ConfigurationNeverChanges, TraceOnlyGrows, EachFieldHasItsWriters: a step with an RST and a command that writes. -/
theorem witness_steps :
    (∃ t, step { held .active .low with inbox := [.rst] } = .next t) ∧
    (∃ t, exec (.ench 1 0) ready = .next t ∧ t.mask ≠ ready.mask) ∧
    (∃ t, exec (.lsetpol 0 0) ready = .next t ∧ t.devAl ≠ ready.devAl) ∧
    (∃ t, exec (.frmMode 1 0x3F) ready = .next t ∧ t.encReg ≠ ready.encReg) :=
  ⟨⟨_, rfl⟩, ⟨_, rfl, by decide⟩, ⟨_, rfl, by decide⟩, ⟨_, rfl, by decide⟩⟩

end Sys2Proof.Tests
end

namespace Sys2Proof.Machine

open Sys2Proof

/-! ## Scope (00_scope.md): the configuration, late answers, and the two units apart -/

/-! ### The configuration (R8, R11) -/

/-- No elementary change of a step writes the configuration; an `RST` constructs with the same one (log 11). -/
theorem keptByParts_cfg (c : Config) : KeptByParts (fun s => s.cfg = c) where
  env _ _ h := h
  writeOk _ _ _ h _ := h
  settling _ _ _ _ h _ := h
  expiring _ _ h _ := h
  expired _ h _ := h
  writeErr _ _ _ h _ := h
  acqOk _ _ _ _ h _ := h
  acqErr _ _ _ _ h _ := h
  setOk _ _ _ _ h _ := h
  setErr _ _ _ _ h _ := h
  inbox _ _ h := h
  port _ _ _ h := h
  rst _ h _ := h
  respond _ _ h _ := h
  session _ _ _ _ _ h _ _ := h
  acquire _ _ _ h _ _ := h
  set _ _ _ h _ _ := h
  polarity _ _ h := h
  release s h _ := by
    rcases s.releaseLine_cases with ⟨-, hr⟩ | ⟨-, hr⟩ <;> rw [hr] <;> exact h

/-- Settles O56: having the configuration of the first state is kept by every part of a step. -/
theorem configurationNeverChanges : Obligations.ConfigurationNeverChanges := by
  unfold Obligations.ConfigurationNeverChanges
  intro s t h
  exact (keptByParts_cfg s.cfg).step rfl h

/-! ### Late answers (R281) -/

/-- When `fetch` takes nothing from the host, the step is the poll (R46, R262). -/
theorem step_of_fetch_poll {s : State} (h : fetch s = .done (.next s.poll)) : step s = .next s.poll := by
  unfold step
  rw [h]

/-- With nothing presented, or an action that must wait for the command in flight, the step is the poll. -/
theorem step_eq_poll_of_waiting (s : State)
    (h : s.inbox = [] ∨ (s.busy = true ∧
      ((∃ w rest, s.inbox = .word (.cmd32 w) :: rest) ∨ ∃ rest, s.inbox = .rst :: rest))) :
    step s = .next s.poll := by
  obtain h | ⟨hb, ⟨w, rest, h⟩ | ⟨rest, h⟩⟩ := h
  · exact step_of_fetch_poll (fetch_of_no_action s h)
  · exact step_of_fetch_poll (fetch_of_command_busy s w rest h hb)
  · exact step_of_fetch_poll (fetch_of_rst_busy s rest h hb)

/-- While the settle timer runs, a poll only brings it one step nearer to its expiry (R45; log 4). -/
theorem State.iterate_poll_of_settle (s : State) {k left : Nat} (h : s.inflight = some (.settle left)) (hk : k ≤ left) :
    State.poll^[k] s = { s with inflight := some (.settle (left - k)) } := by
  induction k with
  | zero => rw [Nat.sub_zero, ← h, Function.iterate_zero_apply]
  | succ k ih =>
    have hl : left - k = (left - (k + 1)) + 1 := by omega
    rw [Function.iterate_succ_apply', ih (by omega), hl, State.poll_of_settle _ _ rfl, State.settleWait_running]

/-- Settles O37: what a poll does, by the request in flight and its answer. -/
theorem lateAnswerCompletesCommand : Obligations.LateAnswerCompletesCommand := by
  unfold Obligations.LateAnswerCompletesCommand
  intro s
  refine ⟨step_eq_poll_of_waiting s, fun f e h => ⟨?_, ?_, ?_⟩, fun l p e h => ⟨?_, ?_⟩, fun l p e h => ⟨?_, ?_⟩,
    fun left h => ⟨s.settle_ends left h, fun k hk => ?_⟩⟩
  · intro e' ha ht
    simp only [s.poll_of_sinkWrite f h, ha, State.writeOutcome, ht, State.sentOutcome]
  · intro left e' ha ht
    simp only [s.poll_of_sinkWrite f h, ha, State.writeOutcome, ht, State.sentOutcome]
  · intro ha
    simp only [s.poll_of_sinkWrite f h, ha, State.writeOutcome]
  · intro ha
    simp only [s.poll_of_gpioAcquire l p h, ha, State.acquireOutcome]
  · intro ha
    simp only [s.poll_of_gpioAcquire l p h, ha, State.acquireOutcome]
  · intro ha
    simp only [s.poll_of_gpioSet l p h, ha, State.setOutcome]
  · intro ha
    simp only [s.poll_of_gpioSet l p h, ha, State.setOutcome]
  · rw [s.iterate_poll_of_settle h hk]
    exact ⟨rfl, rfl⟩

/-! ### Session and line apart (R3, R84) -/

/-- `s` with another output line: its state, device polarity and last physical level (R36, R38, R40). -/
def State.withLine (s : State) (l : Line) (d : Bool) (p : Option Phys) : State :=
  { s with line := l, devAl := d, lastPhys := p }

/-- `s` with another device session: its mask and last mode (R33, R34). -/
def State.withSession (s : State) (m : BitVec 8) (md : Option Mode) : State := { s with mask := m, lastMode := md }

@[simp] theorem State.withLine_cfg (s : State) (l : Line) (d : Bool) (p : Option Phys) :
    (s.withLine l d p).cfg = s.cfg := rfl
@[simp] theorem State.withLine_mask (s : State) (l : Line) (d : Bool) (p : Option Phys) :
    (s.withLine l d p).mask = s.mask := rfl
@[simp] theorem State.withSession_cfg (s : State) (m : BitVec 8) (md : Option Mode) :
    (s.withSession m md).cfg = s.cfg := rfl
@[simp] theorem State.withSession_line (s : State) (m : BitVec 8) (md : Option Mode) :
    (s.withSession m md).line = s.line := rfl
@[simp] theorem State.withSession_devAl (s : State) (m : BitVec 8) (md : Option Mode) :
    (s.withSession m md).devAl = s.devAl := rfl

theorem State.setMask_withLine (s : State) (l : Line) (d : Bool) (p : Option Phys) (v : BitVec 8) :
    (s.withLine l d p).setMask v = (s.setMask v).withLine l d p := rfl
theorem State.setLastMode_withLine (s : State) (l : Line) (d : Bool) (p : Option Phys) (m : Mode) :
    (s.withLine l d p).setLastMode m = (s.setLastMode m).withLine l d p := rfl

/-- `issue` asks the sink and the timer, never the line (R160). -/
theorem State.issue_withLine (s : State) (l : Line) (d : Bool) (p : Option Phys) (r : Register) (v : Half) :
    (s.withLine l d p).issue r v = (s.issue r v).withLine l d p := by
  unfold State.issue
  rw [State.request_sinkWrite, State.request_sinkWrite]
  change State.writeOutcome _ _ s.env.pollSink.1 s.env.pollSink.2 = _
  rcases s.env.pollSink with ⟨_ | _ | _, e⟩
  · rfl
  · simp only [State.writeOutcome]
    rcases e.pollTimer with ⟨_ | left, e'⟩ <;> rfl
  · rfl

/-- An acquire asks the capability, never the session (R202). -/
theorem State.request_gpioAcquire_withSession (s : State) (m : BitVec 8) (md : Option Mode) (level : Level)
    (lvl : Phys) :
    (s.withSession m md).request (.gpioAcquire level lvl) =
      (s.request (.gpioAcquire level lvl)).withSession m md := by
  rw [State.request_gpioAcquire, State.request_gpioAcquire]
  change State.acquireOutcome _ _ _ s.env.pollAcquire.1 s.env.pollAcquire.2 = _
  rcases s.env.pollAcquire with ⟨_ | _ | _, e⟩ <;> rfl

/-- A set asks the capability, never the session (R205, R207). -/
theorem State.request_gpioSet_withSession (s : State) (m : BitVec 8) (md : Option Mode) (level : Level) (lvl : Phys) :
    (s.withSession m md).request (.gpioSet level lvl) = (s.request (.gpioSet level lvl)).withSession m md := by
  rw [State.request_gpioSet, State.request_gpioSet]
  change State.setOutcome _ _ _ s.env.pollSet.1 s.env.pollSet.2 = _
  rcases s.env.pollSet with ⟨_ | _ | _, e⟩ <;> rfl

/-- The release looks at the line alone (R211). -/
theorem State.releaseLine_withSession (s : State) (m : BitVec 8) (md : Option Mode) :
    (s.withSession m md).releaseLine = s.releaseLine.withSession m md := by
  unfold State.releaseLine
  rw [State.withSession_line]
  split <;> rfl

/-- A session command reads and writes nothing of the line: run beside another line, it ends in the same state beside
that line. Each of the seven makes two decisions, on operands, mask and configuration alone, and ends with a status or
with `issue`. -/
theorem exec_session_withLine (i : Instr) (s : State) (l : Line) (d : Bool) (p : Option Phys)
    (h : i.isSession = true) :
    ∃ u, exec i s = .next u ∧ exec i (s.withLine l d p) = .next (u.withLine l d p) := by
  cases i <;> simp only [Instr.isSession, reduceCtorEq] at h <;>
    simp only [exec, execSetmode, execEnch, execDisch, execSetang, execSetfreq, execReset, execSetbaud,
      State.withLine_cfg, State.withLine_mask, State.setMask_withLine, State.setLastMode_withLine,
      State.issue_withLine]
  case setmode | ench | disch | setang | setfreq | reset | setbaud =>
    split
    · exact ⟨_, rfl, rfl⟩
    split
    · exact ⟨_, rfl, rfl⟩
    · exact ⟨_, rfl, rfl⟩

/-- A line command reads and writes nothing of the session: run beside another session, it ends in the same state beside
that session. -/
theorem exec_line_withSession (i : Instr) (s : State) (m : BitVec 8) (md : Option Mode)
    (hc : i.isCommand = true) (hs : i.isSession = false) :
    ∃ u, exec i s = .next u ∧ exec i (s.withSession m md) = .next (u.withSession m md) := by
  cases i <;> simp only [Instr.isSession, Instr.isCommand, reduceCtorEq] at hc hs <;>
    simp only [exec, execLinit, execLon, execLoff, execLsetpol, execLrel, State.lineAl_eq_cfg,
      State.withSession_cfg, State.withSession_line, State.withSession_devAl, State.releaseLine_withSession,
      State.request_gpioAcquire_withSession, State.request_gpioSet_withSession]
  case linit =>
    split
    · exact ⟨_, rfl, rfl⟩
    split
    · exact ⟨_, rfl, rfl⟩
    split <;> exact ⟨_, rfl, rfl⟩
  case lon | loff | lsetpol =>
    split
    · exact ⟨_, rfl, rfl⟩
    split <;> exact ⟨_, rfl, rfl⟩
  case lrel => exact ⟨_, rfl, rfl⟩

/-- Settles O59: the two units' commands commute with a change of the other unit's state. -/
theorem sessionAndLineDoNotInteract : Obligations.SessionAndLineDoNotInteract := by
  unfold Obligations.SessionAndLineDoNotInteract
  constructor
  · intro i s t l d p hs h
    obtain ⟨u, hu, hw⟩ := exec_session_withLine i s l d p hs
    obtain rfl : u = t := by simpa [hu] using h
    exact hw
  · intro i s t m md hc hs h
    obtain ⟨u, hu, hw⟩ := exec_line_withSession i s m md hc hs
    obtain rfl : u = t := by simpa [hu] using h
    exact hw

end Sys2Proof.Machine

namespace Sys2Proof.Machine

open Sys2Proof

/-! ## The state (10_state.md): its invariants, its writers, its ports -/

/-! ### What each part of a step leaves alone -/

/-- A poll never writes the configuration, the mask, the last mode, the device polarity, the closed traces, the codec
inputs or the host's actions. -/
theorem State.poll_writes (s : State) : ∃ l p r rs tr q e, s.poll =
    { s with line := l, lastPhys := p, rsp := r, responses := rs, trace := tr, inflight := q, env := e } := by
  rcases s.poll_cases with ⟨-, h⟩ | ⟨-, e, h⟩ | ⟨f, e, -, h⟩ | ⟨f, left, e, -, h⟩ | ⟨-, h⟩ | ⟨left, -, h⟩ |
    ⟨f, e, -, h⟩ | ⟨l, p, e, -, h⟩ | ⟨l, p, e, -, h⟩ | ⟨l, p, e, -, h⟩ | ⟨l, p, e, -, h⟩ <;>
  exact ⟨_, _, _, _, _, _, _, h⟩

/-- A request writes what a poll writes. -/
theorem State.request_writes (s : State) (q : Request) : ∃ l p r rs tr q' e, s.request q =
    { s with line := l, lastPhys := p, rsp := r, responses := rs, trace := tr, inflight := q', env := e } :=
  State.poll_writes { s with inflight := some q }

/-- `issue` writes nothing of the line (R160). -/
theorem State.issue_writes (s : State) (r : Register) (v : Half) : ∃ st rs tr q e, s.issue r v =
    { s with rsp := st, responses := rs, trace := tr, inflight := q, env := e } := by
  rcases s.issue_cases r v with ⟨e, h⟩ | ⟨e, h⟩ | ⟨left, e, h⟩ | ⟨e, h⟩ <;> exact ⟨_, _, _, _, _, h⟩

/-- The release writes the lifecycle and the trace alone (R211). -/
theorem State.releaseLine_writes (s : State) : ∃ l tr, s.releaseLine = { s with line := l, trace := tr } := by
  rcases s.releaseLine_cases with ⟨-, h⟩ | ⟨-, h⟩ <;> exact ⟨_, _, h⟩

/-- A set keeps an initialized line initialized, whatever it is answered (R205, R207). -/
theorem State.obsLstate_request_gpioSet (s : State) (level : Level) (lvl : Phys) (h : ∃ l, s.line = .init l) :
    obsLstate (s.request (.gpioSet level lvl)).line = obsLstate s.line := by
  obtain ⟨l, hl⟩ := h
  rcases s.request_gpioSet_cases level lvl with ⟨e, h⟩ | ⟨e, h⟩ | ⟨e, h⟩ <;> simp [h, hl, obsLstate]

/-! ### The ways of an instruction -/

theorem eq_zero_of_not_reservedSet {n : Nat} {v : BitVec n} (h : ¬ reservedSet v = true) : v = 0 := by
  simpa [reservedSet] using h

/-- The ways in which an instruction run in `s` ends its step, each with the instructions and operands that have it: a
status at once, a frame sent after a write of the last mode, of the mask or of neither, an acquire, a set, a new device
polarity, the release, or the codec port's inputs. -/
inductive Effect (s : State) : Instr → State → Prop where
  | answer {i : Instr} (st : Status) (hc : i.isCommand = true) : Effect s i (s.finish st)
  | send {i : Instr} (r : Register) (v : Half) (hc : i.isCommand = true) : Effect s i (s.issue r v)
  | sendMode (data : BitVec 24) (m : Mode) (r : Register) (v : Half) :
      Effect s (.setmode 0 data) ((s.setLastMode m).issue r v)
  | sendMask {i : Instr} (ch : BitVec 4) (m : BitVec 8) (r : Register) (v : Half)
      (hi : i = .ench ch 0 ∨ i = .disch ch 0) :
      Effect s i ((s.setMask m).issue r v)
  | acquire (data : BitVec 24) (level : Level) (lvl : Phys) :
      Effect s (.linit 0 data) (s.request (.gpioAcquire level lvl))
  | set {i : Instr} (level : Level) (lvl : Phys) (hi : i = .lon 0 0 ∨ i = .loff 0 0) (hl : ∃ l, s.line = .init l) :
      Effect s i (s.request (.gpioSet level lvl))
  | polarity (data : BitVec 24) (b : Bool) : Effect s (.lsetpol 0 data) ((s.setDevAl b).finish .ok)
  | release (ch : BitVec 4) (data : BitVec 24) : Effect s (.lrel ch data) (s.releaseLine.finish .ok)
  | port {i : Instr} (r : Byte) (v : Half) (hc : i.isCommand = false) : Effect s i (s.drivePort r v)

/-- An instruction has no other way than these. -/
theorem exec_effect {i : Instr} {s t : State} (h : exec i s = .next t) : Effect s i t := by
  cases hc : i.isCommand
  · obtain ⟨r, v, h'⟩ := exec_frame_cases i s hc
    obtain rfl : s.drivePort r v = t := by simpa [h'] using h
    exact .port r v hc
  cases i <;> simp only [Instr.isCommand, reduceCtorEq] at hc <;> injection h with h <;> subst h
  case setmode =>
    split
    · exact .answer _ rfl
    · rename_i hch
      obtain rfl := eq_zero_of_not_reservedSet hch
      split
      · exact .answer _ rfl
      · exact .sendMode _ _ _ _
  case ench ch data | disch ch data =>
    split
    · exact .answer _ rfl
    · rename_i hd
      obtain rfl := eq_zero_of_not_reservedSet hd
      split
      · exact .answer _ rfl
      · exact .sendMask ch _ _ _ (by simp)
  case setang | reset =>
    split
    · exact .answer _ rfl
    split
    · exact .answer _ rfl
    · exact .send _ _ rfl
  case setfreq =>
    split
    · exact .answer _ rfl
    split
    · exact .send _ _ rfl
    · exact .answer _ rfl
  case setbaud =>
    split
    · exact .answer _ rfl
    split
    · exact .answer _ rfl
    · exact .send _ _ rfl
  case linit =>
    split
    · exact .answer _ rfl
    · rename_i hch
      obtain rfl := eq_zero_of_not_reservedSet hch
      split
      · exact .answer _ rfl
      split
      · exact .acquire _ _ _
      · exact .answer _ rfl
      · exact .answer _ rfl
  case lon ch data | loff ch data =>
    split
    · exact .answer _ rfl
    · rename_i hr
      obtain ⟨rfl, rfl⟩ : ch = 0 ∧ data = 0 := by simpa [reservedSet] using hr
      split
      · exact .set _ _ (by simp) ⟨_, ‹_›⟩
      · exact .answer _ rfl
      · exact .answer _ rfl
  case lsetpol =>
    split
    · exact .answer _ rfl
    · rename_i hch
      obtain rfl := eq_zero_of_not_reservedSet hch
      split
      · exact .answer _ rfl
      · exact .polarity _ _
  case lrel => exact .release _ _

/-- Settles O58: each way of an instruction, with the fields it writes. -/
theorem eachFieldHasItsWriters : Obligations.EachFieldHasItsWriters := by
  unfold Obligations.EachFieldHasItsWriters
  intro i s t h
  cases exec_effect h with
  | answer st hc => simp [hc]
  | send r v hc =>
    obtain ⟨st, rs, tr, q, e, hw⟩ := s.issue_writes r v
    simp [hw, hc]
  | sendMode data m r v =>
    obtain ⟨st, rs, tr, q, e, hw⟩ := (s.setLastMode m).issue_writes r v
    simp [hw, Instr.isCommand]
  | sendMask ch m r v hi =>
    obtain ⟨st, rs, tr, q, e, hw⟩ := (s.setMask m).issue_writes r v
    obtain rfl | rfl := hi <;> simp [hw, Instr.isCommand]
  | acquire data level lvl =>
    obtain ⟨l, p, st, rs, tr, q, e, hw⟩ := s.request_writes (.gpioAcquire level lvl)
    simp [hw, Instr.isCommand]
  | set level lvl hi hl =>
    have hs := s.obsLstate_request_gpioSet level lvl hl
    obtain ⟨l, p, st, rs, tr, q, e, hw⟩ := s.request_writes (.gpioSet level lvl)
    rw [hw] at hs ⊢
    obtain rfl | rfl := hi <;> simp [hs, Instr.isCommand]
  | polarity data b => simp [Instr.isCommand]
  | release ch data =>
    obtain ⟨l, tr, hw⟩ := s.releaseLine_writes
    simp [hw, Instr.isCommand]
  | port r v hc => simp [hc]

/-! ### The trace only grows (R44) -/

/-- From `s` to `t` the closed traces stay and the trace is the same or longer. -/
def State.TraceGrowsTo (s t : State) : Prop := t.retired = s.retired ∧ s.trace <+: t.trace

theorem State.poll_traceGrows (s : State) : s.TraceGrowsTo s.poll := by
  unfold State.TraceGrowsTo
  rcases s.poll_cases with ⟨-, h⟩ | ⟨-, e, h⟩ | ⟨f, e, -, h⟩ | ⟨f, left, e, -, h⟩ | ⟨-, h⟩ | ⟨left, -, h⟩ |
    ⟨f, e, -, h⟩ | ⟨l, p, e, -, h⟩ | ⟨l, p, e, -, h⟩ | ⟨l, p, e, -, h⟩ | ⟨l, p, e, -, h⟩ <;> simp [h]

theorem State.request_traceGrows (s : State) (q : Request) : s.TraceGrowsTo (s.request q) :=
  State.poll_traceGrows { s with inflight := some q }

theorem State.releaseLine_traceGrows (s : State) : s.TraceGrowsTo s.releaseLine := by
  unfold State.TraceGrowsTo
  rcases s.releaseLine_cases with ⟨-, h⟩ | ⟨-, h⟩ <;> simp [h]

theorem exec_traceGrows {i : Instr} {s t : State} (h : exec i s = .next t) : s.TraceGrowsTo t := by
  cases exec_effect h with
  | answer | polarity | port => exact ⟨rfl, [], List.append_nil _⟩
  | send | acquire | set => exact s.request_traceGrows _
  | sendMode _ m => exact (s.setLastMode m).request_traceGrows _
  | sendMask _ m => exact (s.setMask m).request_traceGrows _
  | release => exact s.releaseLine_traceGrows

/-- Settles O57: an `RST` closes the trace, every other step lets it grow. -/
theorem traceOnlyGrows : Obligations.TraceOnlyGrows := by
  unfold Obligations.TraceOnlyGrows
  intro s t hst
  have grown : s.TraceGrowsTo t → (t.retired = s.retired ∧ ∃ evs, t.trace = s.trace ++ evs) :=
    fun ⟨hr, evs, ht⟩ => ⟨hr, evs, ht.symm⟩
  rcases step_cases hst with rfl | ⟨rest, -, rfl⟩ | ⟨rest, hi, -, rfl⟩ | ⟨rest, r, v, rfl⟩ | ⟨rest, i, -, he⟩ |
    ⟨rest, i, -, -, he⟩
  · exact .inl (grown s.poll_traceGrows)
  · exact .inl (grown ⟨rfl, [], List.append_nil _⟩)
  · refine .inr ⟨⟨rest, hi⟩, rfl, if s.line.held then [.grel] else [], ?_⟩
    rw [State.rst_retired]
    split <;> simp [*]
  · exact .inl (grown ⟨rfl, [], List.append_nil _⟩)
  · exact .inl (grown (exec_traceGrows (s := { s with inbox := rest }) he))
  · exact .inl (grown (exec_traceGrows (s := { s with inbox := rest }) he))

/-! ### The mask (R33) -/

theorem keptByParts_maskInRange : KeptByParts State.MaskInRange where
  env _ _ h := h
  writeOk _ _ _ h _ := h
  settling _ _ _ _ h _ := h
  expiring _ _ h _ := h
  expired _ h _ := h
  writeErr _ _ _ h _ := h
  acqOk _ _ _ _ h _ := h
  acqErr _ _ _ _ h _ := h
  setOk _ _ _ _ h _ := h
  setErr _ _ _ _ h _ := h
  inbox _ _ h := h
  port _ _ _ h := h
  rst _ _ _ := by simp [State.MaskInRange]
  respond _ _ h _ := h
  session _ _ _ _ _ h _ hm := hm.trans h
  acquire _ _ _ h _ _ := h
  set _ _ _ h _ _ := h
  polarity _ _ h := h
  release s h _ := by
    obtain ⟨l, tr, hr⟩ := s.releaseLine_writes
    rw [hr]
    exact h

/-- Settles O48: a session command changes bits 0 and 1 of the mask only, and nothing else but `RST` writes it. -/
theorem stepKeepsMaskInRange : Obligations.StepKeepsMaskInRange := by
  unfold Obligations.StepKeepsMaskInRange
  exact fun _ _ h hst => keptByParts_maskInRange.step h hst

/-! ### The frames (R98) -/

theorem State.FramesWellFormed.answered {s : State} (h : s.FramesWellFormed) {evs : List Event}
    (hev : ∀ ev ∈ evs, ev.frameOk s.cfg.cksum = true) (st : Status) (e : Env) :
    (s.answered evs st e).FramesWellFormed := by
  refine ⟨fun ev hm => ?_, fun q hq => by simp at hq⟩
  rcases List.mem_append.mp hm with hm | hm
  · exact h.1 ev hm
  · exact hev ev hm

theorem State.FramesWellFormed.inflight {s : State} (h : s.FramesWellFormed) {q : Request}
    (hq : q.frameOk s.cfg.cksum = true) : ({ s with inflight := some q } : State).FramesWellFormed :=
  ⟨h.1, fun _ hq' => Option.some.inj hq' ▸ hq⟩

/-- The frame that the sink is asked to write is well-formed. -/
theorem State.FramesWellFormed.sinkWrite {s : State} (h : s.FramesWellFormed) {f : Frame}
    (hi : s.inflight = some (.sinkWrite f)) : f.wellFormed s.cfg.cksum = true :=
  h.2 _ hi

theorem keptByParts_framesWellFormed : KeptByParts State.FramesWellFormed where
  env _ _ h := h
  writeOk s f e h hi := h.answered (by simp [Event.frameOk, h.sinkWrite hi]) _ _
  settling s f left e h hi := by
    have ha := h.answered (evs := [.frame f .ok]) (by simp [Event.frameOk, h.sinkWrite hi]) .ok e
    exact ha.inflight (q := .settle left) rfl
  expiring _ _ h _ := h.inflight rfl
  expired _ h _ := h.answered (by simp [Event.frameOk]) _ _
  writeErr _ _ _ h hi := h.answered (by simp [Event.frameOk, h.sinkWrite hi]) _ _
  acqOk s l p _ h _ :=
    State.FramesWellFormed.answered (s := { s with line := .init l, lastPhys := some p }) h
      (by simp [Event.frameOk]) _ _
  acqErr _ _ _ _ h _ := h.answered (by simp [Event.frameOk]) _ _
  setOk s l p _ h _ :=
    State.FramesWellFormed.answered (s := { s with line := .init l, lastPhys := some p }) h
      (by simp [Event.frameOk]) _ _
  setErr _ _ _ _ h _ := h.answered (by simp [Event.frameOk]) _ _
  inbox _ _ h := h
  port _ _ _ h := h
  rst _ _ _ := by simp [State.FramesWellFormed]
  respond s st h _ := by
    rw [s.finish_eq_answered]
    exact h.answered (by simp) _ _
  session _ _ _ r v h _ _ := h.inflight (encodeFrame_wellFormed _ r v)
  acquire _ _ _ h _ _ := h.inflight rfl
  set _ _ _ h _ _ := h.inflight rfl
  polarity _ _ h := h
  release s h _ := by
    rcases s.releaseLine_cases with ⟨-, hr⟩ | ⟨-, hr⟩ <;> rw [hr]
    · refine ⟨fun ev hm => ?_, h.2⟩
      rcases List.mem_append.mp hm with hm | hm
      · exact h.1 ev hm
      · obtain rfl := List.mem_singleton.mp hm
        rfl
    · exact h

/-! ### The settle waits (R82) -/

/-- Where no wait is owed, the events of an answer are settled after the trace when they are settled on their own. -/
theorem State.Settled.answered {s : State} (h : s.Settled) (ho : s.owedSettle = []) {evs : List Event}
    (hev : settled s.cfg.settleMs evs = true) (st : Status) (e : Env) : (s.answered evs st e).Settled := by
  have ht : settled s.cfg.settleMs s.trace = true := by simpa [State.Settled, ho] using h
  simpa [State.Settled, State.owedSettle] using settled_append _ _ _ ht hev

/-- `Settled` reads only the configuration, the trace and the wait owed. -/
theorem State.Settled.congr {s t : State} (h : s.Settled) (hc : t.cfg = s.cfg) (ht : t.trace = s.trace)
    (ho : t.owedSettle = s.owedSettle) : t.Settled := by
  unfold State.Settled
  rw [hc, ht, ho]
  exact h

theorem keptByParts_settled : KeptByParts State.Settled where
  env _ _ h := h
  writeOk s f e h hi := h.answered (by simp [State.owedSettle, hi]) (by simp [settled]) _ _
  settling s f left e h hi := by
    have ha := h.answered (by simp [State.owedSettle, hi])
      (evs := [.frame f .ok, .settle s.cfg.settleMs]) (by simp [settled]) .ok e
    simpa [State.Settled, State.owedSettle] using ha
  expiring s left h hi := h.congr rfl rfl (by simp [State.owedSettle, hi])
  expired s h hi := by simpa [State.Settled, State.owedSettle, hi] using h
  writeErr s f e h hi := h.answered (by simp [State.owedSettle, hi]) (by simp [settled]) _ _
  acqOk s l p e h hi := State.Settled.answered (s := { s with line := .init l, lastPhys := some p }) h
    (by simp [State.owedSettle, hi]) (by simp [settled]) _ _
  acqErr s l p e h hi := h.answered (by simp [State.owedSettle, hi]) (by simp [settled]) _ _
  setOk s l p e h hi := State.Settled.answered (s := { s with line := .init l, lastPhys := some p }) h
    (by simp [State.owedSettle, hi]) (by simp [settled]) _ _
  setErr s l p e h hi := h.answered (by simp [State.owedSettle, hi]) (by simp [settled]) _ _
  inbox _ _ h := h
  port _ _ _ h := h
  rst _ _ _ := by simp [State.Settled, State.owedSettle, settled]
  respond s st h hn := by
    rw [s.finish_eq_answered]
    exact h.answered (by simp [State.owedSettle, hn]) rfl _ _
  session _ _ _ _ _ h hn _ := h.congr rfl rfl (by simp [State.owedSettle, hn])
  acquire _ _ _ h hn _ := h.congr rfl rfl (by simp [State.owedSettle, hn])
  set _ _ _ h hn _ := h.congr rfl rfl (by simp [State.owedSettle, hn])
  polarity _ _ h := h
  release s h hn := by
    rcases s.releaseLine_cases with ⟨-, hr⟩ | ⟨-, hr⟩ <;> rw [hr]
    · have ha := h.answered (by simp [State.owedSettle, hn]) (evs := [.grel]) rfl .ok s.env
      exact ha.congr rfl rfl (by simp [State.owedSettle, hn])
    · exact h

/-! ### The line (R36, R40, R200) -/

/-- The session's events do not touch the handle. -/
@[simp] theorem handleAfter_frame (h : Option Handle) (f : Frame) (r : IoAnswer) : handleAfter h (.frame f r) = h := by
  rcases h with _ | _ | _ | _ <;> rfl

@[simp] theorem handleAfter_settle (h : Option Handle) (ms : Nat) : handleAfter h (.settle ms) = h := by
  rcases h with _ | _ | _ | _ <;> rfl

/-- With no GPIO request in flight the agreement is that of lifecycle and last level with the trace. -/
theorem lineAgrees_of_no_gpio {s : State} (hl : s.line.agrees (traceHandle s.trace))
    (hp : s.lastPhys = tracePhys s.trace)
    (ha : ∀ l p, s.inflight ≠ some (.gpioAcquire l p)) (hs : ∀ l p, s.inflight ≠ some (.gpioSet l p)) : s.LineAgrees :=
  ⟨hl, hp, fun l p h => absurd h (ha l p), fun l p h => absurd h (hs l p)⟩

/-- After an answer nothing is in flight; lifecycle and last level have to agree with the longer trace. -/
theorem lineAgrees_answered {s : State} {evs : List Event}
    (hl : s.line.agrees (evs.foldl handleAfter (traceHandle s.trace)))
    (hp : s.lastPhys = evs.foldl physAfter (tracePhys s.trace)) (st : Status) (e : Env) :
    (s.answered evs st e).LineAgrees :=
  lineAgrees_of_no_gpio (by simpa [traceHandle_append] using hl) (by simpa [tracePhys_append] using hp)
    (by simp) (by simp)

/-- With an acquire in flight the line was never held. -/
theorem State.LineAgrees.fresh_of_acquire {s : State} (h : s.LineAgrees) {l : Level} {p : Phys}
    (hi : s.inflight = some (.gpioAcquire l p)) : s.line = .uninit ∧ traceHandle s.trace = some .fresh := by
  obtain ⟨hl, -, ha, -⟩ := h
  have hu := ha l p hi
  rw [hu] at hl
  exact ⟨hu, hl⟩

/-- With a set in flight the line is held. -/
theorem State.LineAgrees.held_of_set {s : State} (h : s.LineAgrees) {l : Level} {p : Phys}
    (hi : s.inflight = some (.gpioSet l p)) : (∃ l', s.line = .init l') ∧ traceHandle s.trace = some .held := by
  obtain ⟨hl, -, -, hs⟩ := h
  obtain ⟨l', hu⟩ := hs l p hi
  rw [hu] at hl
  exact ⟨⟨l', hu⟩, hl⟩

theorem keptByParts_lineAgrees : KeptByParts State.LineAgrees where
  env _ _ h := h
  writeOk _ _ _ := fun ⟨hl, hp, _⟩ _ => lineAgrees_answered (by simpa using hl) hp _ _
  settling _ _ _ _ := fun ⟨hl, hp, _⟩ _ =>
    lineAgrees_of_no_gpio (by simpa [traceHandle_append] using hl) (by simpa [tracePhys_append, physAfter] using hp)
      (by simp) (by simp)
  expiring _ _ := fun ⟨hl, hp, _⟩ _ => lineAgrees_of_no_gpio hl hp (by simp) (by simp)
  expired _ := fun ⟨hl, hp, _⟩ _ => lineAgrees_answered (by simpa using hl) hp _ _
  writeErr _ _ _ := fun ⟨hl, hp, _⟩ _ => lineAgrees_answered (by simpa using hl) hp _ _
  acqOk s l p e h hi := by
    obtain ⟨-, hf⟩ := h.fresh_of_acquire hi
    exact lineAgrees_answered (by simp [hf, handleAfter, Line.agrees]) rfl _ _
  acqErr s l p e h hi := by
    obtain ⟨hu, hf⟩ := h.fresh_of_acquire hi
    obtain ⟨-, hp, -⟩ := h
    exact lineAgrees_answered (by simp [hu, hf, handleAfter, Line.agrees]) hp _ _
  setOk s l p e h hi := by
    obtain ⟨-, hh⟩ := h.held_of_set hi
    exact lineAgrees_answered (by simp [hh, handleAfter, Line.agrees]) rfl _ _
  setErr s l p e h hi := by
    obtain ⟨⟨l', hu⟩, hh⟩ := h.held_of_set hi
    obtain ⟨-, hp, -⟩ := h
    exact lineAgrees_answered (by simp [hu, hh, handleAfter, Line.agrees]) hp _ _
  inbox _ _ h := h
  port _ _ _ h := h
  rst _ _ _ := lineAgrees_of_no_gpio rfl rfl (by simp) (by simp)
  respond s st := fun ⟨hl, hp, _⟩ _ => by
    rw [s.finish_eq_answered]
    exact lineAgrees_answered hl hp _ _
  session _ _ _ _ _ := fun ⟨hl, hp, _⟩ _ _ => lineAgrees_of_no_gpio hl hp (by simp) (by simp)
  acquire _ _ _ := fun ⟨hl, hp, _⟩ _ hu => ⟨hl, hp, fun _ _ _ => hu, fun _ _ h => by simp at h⟩
  set _ _ _ := fun ⟨hl, hp, _⟩ _ hu => ⟨hl, hp, fun _ _ h => by simp at h, fun _ _ _ => hu⟩
  polarity _ _ h := h
  release s := fun ⟨hl, hp, _⟩ hn => by
    rcases s.releaseLine_cases with ⟨⟨l, hu⟩, hr⟩ | ⟨hu, hr⟩ <;> rw [hr] <;>
      refine lineAgrees_of_no_gpio ?_ ?_ (by simp [hn]) (by simp [hn])
    · have hh : traceHandle s.trace = some .held := by simpa [hu, Line.agrees] using hl
      simp [traceHandle_append, hh, handleAfter, Line.agrees]
    · simpa [tracePhys_append, physAfter] using hp
    · rcases hline : s.line with _ | l | _ <;> rw [hline] at hl
      · exact .inr hl
      · exact absurd hline (hu l)
      · exact hl
    · exact hp

/-- Settles O51: the agreement is kept by every part of a step. -/
theorem stepKeepsLineInAgreement : Obligations.StepKeepsLineInAgreement := by
  unfold Obligations.StepKeepsLineInAgreement
  exact fun _ _ h hst => keptByParts_lineAgrees.step h hst

/-! ### The whole invariant -/

theorem responseRecorded_answered (s : State) (evs : List Event) (st : Status) (e : Env) :
    (s.answered evs st e).ResponseRecorded := by
  simp [State.ResponseRecorded]

theorem keptByParts_responseRecorded : KeptByParts State.ResponseRecorded where
  env _ _ h := h
  writeOk _ _ _ _ _ := responseRecorded_answered _ _ _ _
  settling _ _ _ _ h _ := h
  expiring _ _ h _ := h
  expired _ _ _ := responseRecorded_answered _ _ _ _
  writeErr _ _ _ _ _ := responseRecorded_answered _ _ _ _
  acqOk _ _ _ _ _ _ := responseRecorded_answered _ _ _ _
  acqErr _ _ _ _ _ _ := responseRecorded_answered _ _ _ _
  setOk _ _ _ _ _ _ := responseRecorded_answered _ _ _ _
  setErr _ _ _ _ _ _ := responseRecorded_answered _ _ _ _
  inbox _ _ h := h
  port _ _ _ h := h
  rst _ _ _ := rfl
  respond s st _ _ := by
    rw [s.finish_eq_answered]
    exact responseRecorded_answered _ _ _ _
  session _ _ _ _ _ h _ _ := h
  acquire _ _ _ h _ _ := h
  set _ _ _ h _ _ := h
  polarity _ _ h := h
  release s h _ := by
    obtain ⟨l, tr, hr⟩ := s.releaseLine_writes
    rw [hr]
    exact h

theorem step_inv {s t : State} (h : s.Inv) (hst : step s = .next t) : t.Inv where
  mask := keptByParts_maskInRange.step h.mask hst
  frames := keptByParts_framesWellFormed.step h.frames hst
  settle := keptByParts_settled.step h.settle hst
  line := keptByParts_lineAgrees.step h.line hst
  response := keptByParts_responseRecorded.step h.response hst

/-- Settles O52: each part of the invariant is kept by every part of a step. -/
theorem stepKeepsInvariant : Obligations.StepKeepsInvariant := by
  unfold Obligations.StepKeepsInvariant
  exact fun _ _ => step_inv

/-- What the host presents and what the agents answer is no part of the invariant, so it holds at construction with
any. -/
theorem construct_inv (c : Config) (actions : List HostAction) (e : Env) :
    ({ State.construct c with inbox := actions, env := e } : State).Inv where
  mask := by simp [State.MaskInRange]
  frames := by simp [State.FramesWellFormed]
  settle := by simp [State.Settled, State.owedSettle, settled]
  line := lineAgrees_of_no_gpio rfl rfl (by simp) (by simp)
  response := rfl

/-- What every step keeps, every run keeps. -/
theorem run_keeps {P : State → Prop} (hstep : ∀ s t, P s → step s = .next t → P t) (k : Nat) {s t : State} (h : P s)
    (hr : Sys2Proof.core.run k s = .next t) : P t := by
  induction k generalizing s with
  | zero =>
    injection hr with hr
    exact hr ▸ h
  | succ k ih =>
    simp only [Host.Core.run] at hr
    split at hr
    · rename_i u hs
      exact ih (hstep s u h hs) hr
    · exact nomatch hr
    · exact nomatch hr

/-- Settles O53: the invariant holds at construction and every step keeps it. -/
theorem everyRunKeepsInvariant : Obligations.EveryRunKeepsInvariant := by
  unfold Obligations.EveryRunKeepsInvariant
  intro c actions e k t hr
  exact run_keeps (fun _ _ => step_inv) k (construct_inv c actions e) hr

/-! ### The observation port (R50) -/

/-- Settles O3: line by line, over the values of the fields shown. -/
theorem observationPortShowsState : Obligations.ObservationPortShowsState := by
  unfold Obligations.ObservationPortShowsState
  intro s
  have hne : obsLstate s.line ≠ 3 := by rcases s.line with _ | _ | _ <;> simp [obsLstate]
  have hlevel : obsLstate s.line ≠ 1 → obsLevel s.line = none := by
    rcases s.line with _ | l | _ <;> simp [obsLstate, obsLevel]
  exact ⟨rfl, congrArg obsMode, congrArg obsMode, congrArg obsMode, congrArg obsLstate, fun _ => congrArg obsLstate,
    congrArg obsLstate, hne, congrArg obsLevel, congrArg obsLevel, hlevel, rfl, rfl, congrArg obsPhys,
    congrArg obsPhys, congrArg obsPhys, rfl⟩

/-! ### The codec port (R47, R131) -/

/-- An id names a register of the byte class exactly up to 5 (R93). -/
theorem wide_iff_of_ofId {b : Byte} {r : Register} (h : Register.ofId b = some r) : r.wide = true ↔ 5 < b.toNat := by
  rw [← Register.id_of_ofId h]
  cases r <;> decide

theorem codecValid_iff (reg : Byte) (param : Half) :
    codecValid reg param = true ↔
      (1 ≤ reg.toNat ∧ reg.toNat ≤ 7 ∧ (reg.toNat ≤ 5 → param.toNat ≤ 0xFF)) := by
  unfold codecValid
  rcases h : Register.ofId reg with _ | r
  · have := Register.ofId_eq_none.mp h
    simp only [Bool.false_eq_true, false_iff]
    omega
  · have hr : ¬ (reg.toNat = 0 ∨ 7 < reg.toNat) := fun hn => by simp [Register.ofId_eq_none.mpr hn] at h
    simp only [Bool.or_eq_true, wide_iff_of_ofId h, decide_eq_true_eq, BitVec.le_def, BitVec.reduceToNat]
    omega

theorem codecEncode_of_not_valid {reg : Byte} {param : Half} (h : codecValid reg param = false) (p : Cksum) :
    codecEncode p reg param = none := by
  unfold codecEncode
  cases Register.ofId reg <;> simp [h]

theorem codecEncode_of_valid {reg : Byte} {param : Half} (h : codecValid reg param = true) (p : Cksum) :
    ∃ r, Register.ofId reg = some r ∧ codecEncode p reg param = some (encodeFrame p r param) := by
  rcases hr : Register.ofId reg with _ | r
  · simp [codecValid, hr] at h
  · exact ⟨r, rfl, by simp [codecEncode, hr, h]⟩

/-- Settles O6: the inputs that are valid, no frame for the others, and the frame of R130. -/
theorem codecPortAnswersEveryInput : Obligations.CodecPortAnswersEveryInput := by
  unfold Obligations.CodecPortAnswersEveryInput
  intro s
  refine ⟨codecValid_iff _ _, fun h => ?_, fun h => ?_⟩
  · exact congrArg (Option.map Frame.toBits) (codecEncode_of_not_valid h s.cfg.cksum)
  · obtain ⟨r, hr, he⟩ := codecEncode_of_valid h s.cfg.cksum
    exact ⟨r, hr, congrArg (Option.map Frame.toBits) he⟩

/-! ### The host's next action (R46, R47) -/

theorem step_of_fetch_run {s t : State} {i : Instr} (h : fetch s = .run i t) : step s = exec i t := by
  unfold step
  rw [h]

theorem acceptCmd_of_decode {w : CmdWord} {i : Instr} (h : decode (.cmd32 w) = .ok i) (t : State) :
    acceptCmd w t = .run i t := by
  unfold acceptCmd
  rw [h]

theorem acceptFrame_of_decode {w : FrameWord} {i : Instr} (h : decode (.frame48 w) = .ok i) (t : State) :
    acceptFrame w t = .run i t := by
  unfold acceptFrame
  rw [h]

/-- Settles O32: the command word is fetched and runs. -/
theorem stepRunsPresentedCommand : Obligations.StepRunsPresentedCommand := by
  unfold Obligations.StepRunsPresentedCommand
  intro s w rest i hb hi hd
  exact step_of_fetch_run ((fetch_of_command s w rest hi hb).trans (acceptCmd_of_decode hd _))

/-- Settles O33: the frame word is fetched and runs, with no look at `busy`. -/
theorem stepRunsPresentedFrame : Obligations.StepRunsPresentedFrame := by
  unfold Obligations.StepRunsPresentedFrame
  intro s w rest i hi hd
  exact step_of_fetch_run ((fetch_of_frame s w rest hi).trans (acceptFrame_of_decode hd _))

/-- Settles O34: the step is the poll, which never writes the host's actions. -/
theorem busyHoldsNextCommand : Obligations.BusyHoldsNextCommand := by
  unfold Obligations.BusyHoldsNextCommand
  intro s w rest hb hi
  refine ⟨step_eq_poll_of_waiting s (.inr ⟨hb, .inl ⟨w, rest, hi⟩⟩), ?_⟩
  obtain ⟨l, p, r, rs, tr, q, e, h⟩ := s.poll_writes
  rw [h]

/-- Settles O38: the codec inputs are fetched first, whatever is in flight. -/
theorem codecInputsAreTakenAnytime : Obligations.CodecInputsAreTakenAnytime := by
  unfold Obligations.CodecInputsAreTakenAnytime
  intro s reg param rest hi
  unfold step
  rw [fetch_of_codec s reg param rest hi]
  rfl

end Sys2Proof.Machine

namespace Sys2Proof.Machine

open Sys2Proof

/-! ## Frames, their order in the trace, and the sink (20_memory.md) -/

/-! ### Frames followed by their settle waits (R82, R83, R160, R181) -/

/-- Settles O50: the waits are kept by every part of a step. -/
theorem stepKeepsFramesSettled : Obligations.StepKeepsFramesSettled := by
  unfold Obligations.StepKeepsFramesSettled
  exact fun _ _ h hst => keptByParts_settled.step h hst

/-- Settles O20: a session command answers at once and logs nothing, or issues one frame, which stays unanswered or gets one
of the answers. -/
theorem sessionCommandSendsAtMostOneFrame : Obligations.SessionCommandSendsAtMostOneFrame := by
  unfold Obligations.SessionCommandSendsAtMostOneFrame
  intro i s hi
  rcases exec_session_cases i s hi with ⟨st, -, he⟩ | ⟨m, md, r, v, -, he⟩
  · exact ⟨_, [], he, by simp, .inl rfl⟩
  · rcases ({ s with mask := m, lastMode := md } : State).issue_cases r v with
      ⟨e, hs⟩ | ⟨e, hs⟩ | ⟨left, e, hs⟩ | ⟨e, hs⟩ <;> rw [hs] at he
    · exact ⟨_, [], he, (List.append_nil _).symm, .inl rfl⟩
    · exact ⟨_, _, he, rfl, .inr (.inl ⟨_, rfl⟩)⟩
    · exact ⟨_, _, he, rfl, .inr (.inr (.inl ⟨_, left, rfl, rfl⟩))⟩
    · exact ⟨_, _, he, rfl, .inr (.inr (.inr ⟨_, rfl⟩))⟩

/-- A trace that begins with a frame answered Ok is settled when its wait comes next and the rest is settled. -/
theorem settled_frame_ok_iff {ms : Nat} {f : Frame} {rest : List Event} :
    settled ms (.frame f .ok :: rest) = true ↔ ∃ tail, rest = .settle ms :: tail ∧ settled ms tail = true := by
  rcases rest with _ | ⟨_ | _ | _ | _ | _, tail⟩ <;> simp [settled]

/-- In a settled trace what follows a frame answered Ok begins with its settle wait. -/
theorem settle_follows_frame_of_settled {ms : Nat} {before rest : List Event} {f : Frame}
    (h : settled ms (before ++ .frame f .ok :: rest) = true) : ∃ tail, rest = .settle ms :: tail := by
  induction before using settled.induct with
  | case1 =>
    obtain ⟨tail, hrest, -⟩ := settled_frame_ok_iff.mp h
    exact ⟨tail, hrest⟩
  | case2 f' m before ih =>
    simp only [List.cons_append, settled, Bool.and_eq_true] at h
    obtain ⟨-, hrest⟩ := h
    exact ih hrest
  | case3 f' before hnot =>
    obtain ⟨tail, hnext, -⟩ := settled_frame_ok_iff.mp h
    rcases before with _ | ⟨ev, before⟩
    · exact nomatch hnext
    · obtain ⟨rfl, -⟩ := List.cons.inj hnext
      exact absurd rfl (hnot ms before)
  | case5 m before => simp [settled] at h
  | case4 _ _ ih | case6 _ _ _ _ _ ih | case7 _ _ _ ih | case8 _ ih => exact ih h

/-- Settles O54: the first event between the two frames is the settle wait of the first. -/
theorem settleBetweenFrames : Obligations.SettleBetweenFrames := by
  unfold Obligations.SettleBetweenFrames
  intro s hinv before middle after f g r ht
  have hs : settled s.cfg.settleMs
      (before ++ .frame f .ok :: (middle ++ .frame g r :: after ++ s.owedSettle)) = true := by
    simpa [State.Settled, ht] using hinv.settle
  obtain ⟨tail, hm⟩ := settle_follows_frame_of_settled hs
  cases middle with
  | nil => exact nomatch hm
  | cons ev middle =>
    obtain ⟨rfl, -⟩ := List.cons.inj hm
    exact List.mem_cons_self

/-! ### What a write transfers to the sink (R76, R77, R85) -/

/-- The leading parts of a frame's six bytes. -/
theorem eq_take_toBytes_iff_prefix (f : Frame) (bs : List Byte) :
    (∃ k, k ≤ 6 ∧ bs = f.toBytes.take k) ↔ bs <+: f.toBytes := by
  constructor
  · rintro ⟨k, -, rfl⟩
    exact List.take_prefix k _
  · intro h
    exact ⟨bs.length, h.length_le, List.prefix_iff_eq_take.mp h⟩

/-- Settles O60: by the sink's answer, all six bytes or the leading parts of them. -/
theorem failedWriteMayDeliverAnyPrefix : Obligations.FailedWriteMayDeliverAnyPrefix := by
  unfold Obligations.FailedWriteMayDeliverAnyPrefix
  exact fun f bs => ⟨Iff.rfl, eq_take_toBytes_iff_prefix f bs, fun _ => eq_take_toBytes_iff_prefix f bs⟩

/-! ### The frame word and the order of its bytes (R71, R72, R74, R94) -/

/-- The parameter bytes of a 16-bit register's frame, high byte first, are the parameter (R94). -/
theorem encodeFrame_param_of_wide (p : Cksum) {r : Register} (hr : r.wide = true) (v : Half) :
    (encodeFrame p r v).paramHigh.toNat * 256 + (encodeFrame p r v).paramLow.toNat = v.toNat := by
  obtain ⟨hhigh, hlow⟩ := half_bytes_toNat v
  simp only [encodeFrame_paramHigh, encodeFrame_paramLow, paramHighByte, hr, if_true, hhigh, hlow]
  omega

/-- Settles O8: the word in numbers and back, the bytes for the sink and back, the parameter's bytes. -/
theorem frameWordIsBigEndianByOffset : Obligations.FrameWordIsBigEndianByOffset := by
  unfold Obligations.FrameWordIsBigEndianByOffset
  exact ⟨Frame.toBits_toNat, fun w => BitVec.eq_of_toNat_eq (Frame.toBits_ofBits_toNat w), fun _ => ⟨rfl, rfl⟩,
    fun p _ v hr => encodeFrame_param_of_wide p hr v⟩

end Sys2Proof.Machine

namespace Sys2Proof

/-! ## Encodings (30_encoding.md): the two directions of the decoder, the opcode table, the assembler -/

/-! ### The instructions by opcode and by register -/

/-- Every instruction is an opcode with its fields (R101) or a register with its bytes (R93); the high byte of a single-byte
register is zero (R95). -/
theorem Instr.opcode_or_register : ∀ i : Instr,
    (∃ (o : Opcode) (ch : BitVec 4) (data : BitVec 24), i = o.instr ch data) ∨
    (∃ (r : Register) (hi lo ck : Byte), (r.wide = true ∨ hi = 0x00) ∧ i = r.instr hi lo ck)
  | .setmode ch data => .inl ⟨.setmode, ch, data, rfl⟩
  | .ench ch data    => .inl ⟨.ench, ch, data, rfl⟩
  | .disch ch data   => .inl ⟨.disch, ch, data, rfl⟩
  | .setang ch data  => .inl ⟨.setang, ch, data, rfl⟩
  | .setfreq ch data => .inl ⟨.setfreq, ch, data, rfl⟩
  | .reset ch data   => .inl ⟨.reset, ch, data, rfl⟩
  | .setbaud ch data => .inl ⟨.setbaud, ch, data, rfl⟩
  | .linit ch data   => .inl ⟨.linit, ch, data, rfl⟩
  | .lon ch data     => .inl ⟨.lon, ch, data, rfl⟩
  | .loff ch data    => .inl ⟨.loff, ch, data, rfl⟩
  | .lsetpol ch data => .inl ⟨.lsetpol, ch, data, rfl⟩
  | .lrel ch data    => .inl ⟨.lrel, ch, data, rfl⟩
  | .frmMode value ck          => .inr ⟨.mode, 0x00, value, ck, .inr rfl, rfl⟩
  | .frmChannelEnable value ck => .inr ⟨.channelEnable, 0x00, value, ck, .inr rfl, rfl⟩
  | .frmAngle1 value ck        => .inr ⟨.angle1, 0x00, value, ck, .inr rfl, rfl⟩
  | .frmAngle2 value ck        => .inr ⟨.angle2, 0x00, value, ck, .inr rfl, rfl⟩
  | .frmFrequency value ck     => .inr ⟨.frequency, 0x00, value, ck, .inr rfl, rfl⟩
  | .frmReset param ck         =>
    .inr ⟨.reset, _, _, ck, .inl rfl, congrArg (Instr.frmReset · ck) (half_of_bytes param).symm⟩
  | .frmBaudrate param ck      =>
    .inr ⟨.baudrate, _, _, ck, .inl rfl, congrArg (Instr.frmBaudrate · ck) (half_of_bytes param).symm⟩

/-- The two bytes of a 16-bit parameter are read back from it (R94). -/
theorem bytes_of_half (hi lo : Byte) :
    (hi ++ lo : Half).extractLsb' 8 8 = hi ∧ (hi ++ lo : Half).extractLsb' 0 8 = lo := by
  have hh := hi.isLt
  have hl := lo.isLt
  obtain ⟨hhigh, hlow⟩ := half_bytes_toNat (hi ++ lo : Half)
  rw [toNat_append_add] at hhigh hlow
  constructor <;> apply BitVec.eq_of_toNat_eq <;> omega

/-- The word of a frame row is its register's id and bytes (R90). -/
theorem encode_registerInstr {r : Register} {hi : Byte} (hw : r.wide = true ∨ hi = 0x00) (lo ck : Byte) :
    encode (r.instr hi lo ck) = .frame48 (frameWord r.id hi lo ck) := by
  obtain ⟨hhigh, hlow⟩ := bytes_of_half hi lo
  have wide : ∀ reg : Byte, frameWord reg ((hi ++ lo : Half).extractLsb' 8 8) ((hi ++ lo : Half).extractLsb' 0 8) ck =
      frameWord reg hi lo ck := fun reg => by rw [hhigh, hlow]
  cases r with
  | reset | baudrate => exact congrArg InstrWord.frame48 (wide _)
  | mode | channelEnable | angle1 | angle2 | frequency =>
    obtain hw | rfl := hw
    · exact nomatch hw
    · rfl

@[simp] theorem Frame.toBits_ofBits (w : FrameWord) : (Frame.ofBits w).toBits = w :=
  BitVec.eq_of_toNat_eq (Frame.toBits_ofBits_toNat w)

/-! ### Decoding is the inverse of encoding -/

theorem decode_encode (i : Instr) : decode (encode i) = .ok i := by
  obtain ⟨o, ch, data, rfl⟩ | ⟨r, hi, lo, ck, hw, rfl⟩ := i.opcode_or_register
  · rw [encode_instr]
    refine decodeCmd_eq_ok.mpr ⟨o, ?_, ?_⟩
    · rw [cmdOp_cmdWord]
      exact Opcode.ofBits_eq_some.mpr rfl
    · rw [cmdCh_cmdWord, cmdData_cmdWord]
  · rw [encode_registerInstr hw]
    refine decodeFrame_eq_ok.mpr ?_
    rw [frameWord, Frame.ofBits_toBits]
    exact ⟨rfl, rfl, r, Register.ofId_id r, hw, rfl⟩

theorem encode_of_decode {w : InstrWord} {i : Instr} (h : decode w = .ok i) : encode i = w := by
  cases w with
  | cmd32 w =>
    obtain ⟨o, ho, rfl⟩ := decodeCmd_eq_ok.mp h
    rw [encode_instr, ← Opcode.ofBits_eq_some.mp ho, cmdWord_of_fields]
  | frame48 w =>
    obtain ⟨h1, h2, r, hr, hw, rfl⟩ := decodeFrame_eq_ok.mp h
    rw [encode_registerInstr hw, Register.id_of_ofId hr, frameWord, ← h1, ← h2]
    exact congrArg InstrWord.frame48 (Frame.toBits_ofBits w)

/-- Settles O40: of a command the opcode and the fields are read back, of a frame row its bytes. -/
theorem decodeOfEncode : Obligations.DecodeOfEncode := by
  unfold Obligations.DecodeOfEncode
  exact decode_encode

/-- Settles O41: a word is put together again from the fields the decoder reads. -/
theorem encodeOfDecode : Obligations.EncodeOfDecode := by
  unfold Obligations.EncodeOfDecode
  exact fun _ _ => encode_of_decode

/-! ### The opcode table -/

/-- The table row of a command: OP above 28 free bits. -/
theorem tableRow_opcodeInstr (o : Opcode) (ch : BitVec 4) (data : BitVec 24) :
    tableRow (o.instr ch data) = ⟨32, o.bits.toNat * 2 ^ 28, 0xF0000000⟩ := by
  cases o <;> rfl

/-- The table row of a frame: header and register id, and for a single-byte register the zero high byte. -/
theorem tableRow_registerInstr (r : Register) (hi lo ck : Byte) :
    tableRow (r.instr hi lo ck) =
      ⟨48, 0x57 * 2 ^ 40 + 0x68 * 2 ^ 32 + r.id.toNat * 2 ^ 24,
        if r.wide then 0xFFFFFF000000 else 0xFFFFFFFF0000⟩ := by
  cases r <;> rfl

/-- A command word is of an opcode's row exactly when its OP is that opcode. -/
theorem cmd32_ofRow_iff {w : CmdWord} {o : Opcode} {ch : BitVec 4} {data : BitVec 24} :
    (InstrWord.cmd32 w).ofRow (tableRow (o.instr ch data)) ↔ cmdOp w = o.bits := by
  have hw := w.isLt
  have ho := o.bits.isLt
  rw [tableRow_opcodeInstr]
  simp only [InstrWord.ofRow, true_and, Laws.TableRow.and_op_mask, ← BitVec.toNat_inj, BitVec.toNat_ofNat, cmdOp_toNat]
  omega

/-- A frame word is of a register's row exactly when its fixed bytes are those of the register's frames. -/
theorem frame48_ofRow_iff {w : FrameWord} {r : Register} {hi lo ck : Byte} :
    (InstrWord.frame48 w).ofRow (tableRow (r.instr hi lo ck)) ↔
      (Frame.ofBits w).header1 = 0x57 ∧ (Frame.ofBits w).header2 = 0x68 ∧ (Frame.ofBits w).register = r.id ∧
        (r.wide = true ∨ (Frame.ofBits w).paramHigh = 0x00) := by
  have hw := w.isLt
  have hr := r.id.isLt
  rw [tableRow_registerInstr]
  cases hwide : r.wide <;>
    simp only [InstrWord.ofRow, Frame.ofBits, if_true, Bool.false_eq_true, if_false, true_and, true_or, false_or, and_true,
      Laws.TableRow.and_half_mask, Laws.TableRow.and_byte_mask, ← BitVec.toNat_inj, BitVec.toNat_ofNat, BitVec.reduceToNat,
      frameByte_toNat] <;>
    omega

theorem encode_ofRow (i : Instr) : (encode i).ofRow (tableRow i) := by
  obtain ⟨o, ch, data, rfl⟩ | ⟨r, hi, lo, ck, hw, rfl⟩ := i.opcode_or_register
  · rw [encode_instr]
    exact cmd32_ofRow_iff.mpr (cmdOp_cmdWord _ _ _)
  · rw [encode_registerInstr hw, frame48_ofRow_iff, frameWord, Frame.ofBits_toBits]
    exact ⟨rfl, rfl, rfl, hw⟩

/-- A word of an instruction's row decodes, to the instruction of that row with the word's own fields. -/
theorem exists_decode_of_ofRow {w : InstrWord} {i : Instr} (h : w.ofRow (tableRow i)) :
    ∃ j, decode w = .ok j ∧ tableRow j = tableRow i := by
  obtain ⟨o, ch, data, rfl⟩ | ⟨r, hi, lo, ck, -, rfl⟩ := i.opcode_or_register
  · cases w with
    | cmd32 w =>
      have ho := Opcode.ofBits_eq_some.mpr (cmd32_ofRow_iff.mp h)
      refine ⟨_, decodeCmd_eq_ok.mpr ⟨o, ho, rfl⟩, ?_⟩
      rw [tableRow_opcodeInstr, tableRow_opcodeInstr]
    | frame48 w =>
      rw [tableRow_opcodeInstr] at h
      exact nomatch h.1
  · cases w with
    | cmd32 w =>
      rw [tableRow_registerInstr] at h
      exact nomatch h.1
    | frame48 w =>
      obtain ⟨h1, h2, hr, hw⟩ := frame48_ofRow_iff.mp h
      have hid : Register.ofId (Frame.ofBits w).register = some r := by rw [hr, Register.ofId_id]
      refine ⟨_, decodeFrame_eq_ok.mpr ⟨h1, h2, r, hid, hw, rfl⟩, ?_⟩
      rw [tableRow_registerInstr, tableRow_registerInstr]

/-- Settles O42: the row fixes the bits the decoder looks at, and a word that decodes is an encoded one. -/
theorem decoderAgreesWithOpcodeTable : Obligations.DecoderAgreesWithOpcodeTable := by
  unfold Obligations.DecoderAgreesWithOpcodeTable
  intro w i
  refine ⟨exists_decode_of_ofRow, fun ⟨j, hj, hrow⟩ => ?_⟩
  rw [← hrow, ← encode_of_decode hj]
  exact encode_ofRow j

/-- The condition on the register id and the high byte under which a frame names a register (R95, R97), in numbers. -/
theorem exists_register_iff (b hi : Byte) :
    (∃ r, Register.ofId b = some r ∧ (r.wide = true ∨ hi = 0x00)) ↔
      (1 ≤ b.toNat ∧ b.toNat ≤ 7 ∧ (b.toNat ≤ 5 → hi.toNat = 0)) := by
  have hz : hi = 0x00 ↔ hi.toNat = 0 := BitVec.toNat_inj.symm
  rcases h : Register.ofId b with _ | r
  · have := Register.ofId_eq_none.mp h
    simp only [reduceCtorEq, false_and, exists_false, false_iff]
    omega
  · have hr : ¬ (b.toNat = 0 ∨ 7 < b.toNat) := fun hn => by simp [Register.ofId_eq_none.mpr hn] at h
    simp only [Option.some.injEq, exists_eq_left', Machine.wide_iff_of_ofId h, hz]
    omega

/-- A frame word decodes by its header, its register id and, for a single-byte register, its high byte. -/
theorem exists_decode_frame48_iff (w : FrameWord) :
    (∃ i, decode (.frame48 w) = .ok i) ↔
      (Frame.ofBits w).header1 = 0x57 ∧ (Frame.ofBits w).header2 = 0x68 ∧
        ∃ r, Register.ofId (Frame.ofBits w).register = some r ∧
          (r.wide = true ∨ (Frame.ofBits w).paramHigh = 0x00) := by
  simp only [decode, decodeFrame_eq_ok]
  constructor
  · rintro ⟨-, h1, h2, r, hr, hw, -⟩
    exact ⟨h1, h2, r, hr, hw⟩
  · rintro ⟨h1, h2, r, hr, hw⟩
    exact ⟨_, h1, h2, r, hr, hw, rfl⟩

/-- Settles O43: the bytes the decoder looks at, as places of the word. -/
theorem frameWordsThatDecode : Obligations.FrameWordsThatDecode := by
  unfold Obligations.FrameWordsThatDecode
  intro w
  have hw := w.isLt
  rw [exists_decode_frame48_iff, exists_register_iff]
  simp only [Frame.ofBits, ← BitVec.toNat_inj, BitVec.reduceToNat, frameByte_toNat]
  omega

/-- Settles O44: each word is decoded. -/
theorem sampleWordsDecode : Obligations.SampleWordsDecode := by
  unfold Obligations.SampleWordsDecode
  decide

end Sys2Proof

namespace Sys2Proof.Machine

open Sys2Proof

/-! ### The assembler (R106, R107) -/

theorem asmCh_of_le {n : Nat} (h : n ≤ 15) : ∃ ch, asmCh n = .ok ch ∧ ch.toNat = n :=
  ⟨_, if_pos h, Nat.mod_eq_of_lt (by omega)⟩
theorem asmCh_of_lt {n : Nat} (h : 15 < n) : asmCh n = .error .chDoesNotFit := if_neg (by omega)
theorem asmData_of_le {n : Nat} (h : n ≤ 0xFFFFFF) : ∃ data, asmData n = .ok data ∧ data.toNat = n :=
  ⟨_, if_pos h, Nat.mod_eq_of_lt (by omega)⟩
theorem asmData_of_lt {n : Nat} (h : 0xFFFFFF < n) : asmData n = .error .dataDoesNotFit := if_neg (by omega)

theorem Asm.words_of_instrs {a : Asm} {is : List Instr} (h : a.instrs = .ok is) : a.words = .ok (is.map encode) := by
  rw [Asm.words, h]
  rfl

theorem Asm.words_of_error {a : Asm} {x : AsmError} (h : a.instrs = .error x) : a.words = .error x := by
  rw [Asm.words, h]
  rfl

/-- A line that is one command is the one word with the opcode and the operands in their fields. -/
theorem Asm.words_of_command {a : Asm} (o : Opcode) {ch : BitVec 4} {data : BitVec 24}
    (h : a.instrs = .ok [o.instr ch data]) :
    ∃ w : CmdWord, a.words = .ok [.cmd32 w] ∧ w.toNat = o.bits.toNat * 2 ^ 28 + ch.toNat * 2 ^ 24 + data.toNat := by
  refine ⟨cmdWord o.bits ch data, ?_, cmdWord_toNat _ _ _⟩
  rw [Asm.words_of_instrs h, List.map_singleton, encode_instr]

/-- The lines whose one operand is DATA: passed in its field. -/
theorem Asm.words_of_data {a : Asm} (o : Opcode) {data : Nat} (hd : data ≤ 0xFFFFFF)
    (h : a.instrs = (do return [o.instr 0 (← asmData data)])) :
    ∃ w : CmdWord, a.words = .ok [.cmd32 w] ∧ w.toNat = o.bits.toNat * 2 ^ 28 + data := by
  obtain ⟨d, hasm, hval⟩ := asmData_of_le hd
  rw [hasm] at h
  obtain ⟨w, hw, hn⟩ := Asm.words_of_command o h
  exact ⟨w, hw, by simpa [hval] using hn⟩

/-- The lines whose one operand is DATA: rejected when it does not fit. -/
theorem Asm.words_of_data_too_big {a : Asm} (o : Opcode) {data : Nat} (hd : 0xFFFFFF < data)
    (h : a.instrs = (do return [o.instr 0 (← asmData data)])) : ∃ x, a.words = .error x := by
  rw [asmData_of_lt hd] at h
  exact ⟨_, Asm.words_of_error h⟩

/-- The lines whose one operand is CH: passed in its field. -/
theorem Asm.words_of_ch {a : Asm} (o : Opcode) {ch : Nat} (hc : ch ≤ 15)
    (h : a.instrs = (do return [o.instr (← asmCh ch) 0])) :
    ∃ w : CmdWord, a.words = .ok [.cmd32 w] ∧ w.toNat = o.bits.toNat * 2 ^ 28 + ch * 2 ^ 24 := by
  obtain ⟨c, hasm, hval⟩ := asmCh_of_le hc
  rw [hasm] at h
  obtain ⟨w, hw, hn⟩ := Asm.words_of_command o h
  exact ⟨w, hw, by simpa [hval] using hn⟩

/-- The lines whose one operand is CH: rejected when it does not fit. -/
theorem Asm.words_of_ch_too_big {a : Asm} (o : Opcode) {ch : Nat} (hc : 15 < ch)
    (h : a.instrs = (do return [o.instr (← asmCh ch) 0])) : ∃ x, a.words = .error x := by
  rw [asmCh_of_lt hc] at h
  exact ⟨_, Asm.words_of_error h⟩

theorem Asm.words_setang_of_le {ch data : Nat} (hc : ch ≤ 15) (hd : data ≤ 0xFFFFFF) :
    ∃ w : CmdWord, (Asm.setang ch data).words = .ok [.cmd32 w] ∧ w.toNat = 0x40000000 + ch * 2 ^ 24 + data := by
  obtain ⟨c, hch, rfl⟩ := asmCh_of_le hc
  obtain ⟨d, hdata, rfl⟩ := asmData_of_le hd
  have h : (Asm.setang c.toNat d.toNat).instrs = .ok [Opcode.setang.instr c d] := by
    rw [Asm.instrs, hch, hdata]
    rfl
  exact Asm.words_of_command .setang h

theorem Asm.words_setang_of_ch_too_big {ch : Nat} (hc : 15 < ch) (data : Nat) :
    ∃ x, (Asm.setang ch data).words = .error x := by
  have h : (Asm.setang ch data).instrs = .error .chDoesNotFit := by
    rw [Asm.instrs, asmCh_of_lt hc]
    rfl
  exact ⟨_, Asm.words_of_error h⟩

theorem Asm.words_setang_of_data_too_big (ch : Nat) {data : Nat} (hd : 0xFFFFFF < data) :
    ∃ x, (Asm.setang ch data).words = .error x := by
  rcases Nat.lt_or_ge 15 ch with hc | hc
  · exact Asm.words_setang_of_ch_too_big hc data
  · have h : (Asm.setang ch data).instrs = .error .dataDoesNotFit := by
      obtain ⟨c, hch, -⟩ := asmCh_of_le hc
      rw [Asm.instrs, hch, asmData_of_lt hd]
      rfl
    exact ⟨_, Asm.words_of_error h⟩

/-- Settles O45: the lines by their operands, CH and DATA, CH alone, DATA alone, none. -/
theorem assemblerPassesWhatFits : Obligations.AssemblerPassesWhatFits := by
  unfold Obligations.AssemblerPassesWhatFits
  refine ⟨fun ch data hc hd => Asm.words_setang_of_le hc hd,
    fun ch hc => ⟨Asm.words_of_ch .ench hc rfl, Asm.words_of_ch .disch hc rfl⟩,
    fun data hd => ⟨Asm.words_of_data .setmode hd rfl, Asm.words_of_data .setfreq hd rfl, Asm.words_of_data .reset hd rfl,
      Asm.words_of_data .setbaud hd rfl, Asm.words_of_data .linit hd rfl, Asm.words_of_data .lsetpol hd rfl⟩,
    fun ch data hc => ⟨Asm.words_setang_of_ch_too_big hc data, Asm.words_of_ch_too_big .ench hc rfl,
      Asm.words_of_ch_too_big .disch hc rfl⟩,
    fun ch data hd => ⟨Asm.words_setang_of_data_too_big ch hd, Asm.words_of_data_too_big .setmode hd rfl,
      Asm.words_of_data_too_big .setfreq hd rfl, Asm.words_of_data_too_big .reset hd rfl,
      Asm.words_of_data_too_big .setbaud hd rfl, Asm.words_of_data_too_big .linit hd rfl,
      Asm.words_of_data_too_big .lsetpol hd rfl⟩,
    ⟨rfl, rfl, rfl⟩, rfl, rfl, rfl⟩

/-! ### The frames of the codec and of the block (R91, R98) -/

/-- Settles O7: a frame the codec gives is the encoded one, of the register that its id names. -/
theorem encodedFramesAreWellFormed : Obligations.EncodedFramesAreWellFormed := by
  unfold Obligations.EncodedFramesAreWellFormed
  intro p reg param f hf
  cases hv : codecValid reg param with
  | false => exact nomatch (codecEncode_of_not_valid hv p).symm.trans hf
  | true =>
    obtain ⟨r, hr, he⟩ := codecEncode_of_valid hv p
    obtain rfl := Option.some.inj (he.symm.trans hf)
    exact ⟨encodeFrame_wellFormed p r param, Register.id_of_ofId hr⟩

/-- Settles O49: well-formedness of the frames is kept by every part of a step. -/
theorem stepKeepsFramesWellFormed : Obligations.StepKeepsFramesWellFormed := by
  unfold Obligations.StepKeepsFramesWellFormed
  exact fun _ _ h hst => keptByParts_framesWellFormed.step h hst

/-! ### The one stop of the machine (R97, R131; log 15) -/

/-- No instruction stops the machine. -/
theorem exec_next (i : Instr) (s : State) : ∃ t, exec i s = .next t := by
  cases hc : i.isCommand
  · obtain ⟨_, _, h⟩ := exec_frame_cases i s hc
    exact ⟨_, h⟩
  · cases hs : i.isSession
    · rcases exec_line_cases i s hc hs with ⟨_, h⟩ | ⟨-, _, _, h⟩ | ⟨-, _, _, h⟩ | ⟨_, h⟩ | h <;> exact ⟨_, h⟩
    · rcases exec_session_cases i s hs with ⟨_, -, h⟩ | ⟨_, _, _, _, -, h⟩ <;> exact ⟨_, h⟩

theorem step_of_fetch_done {s : State} {o : Host.Outcome State Fault Refusal} (h : fetch s = .done o) : step s = o := by
  unfold step
  rw [h]

theorem step_next_of_fetch_run {s t : State} {i : Instr} (h : fetch s = .run i t) : ∃ u, step s = .next u := by
  rw [step_of_fetch_run h]
  exact exec_next i t

/-- The host's next action is a 48-bit word that is no frame of the protocol. -/
def State.PresentsNonFrame (s : State) : Prop :=
  ∃ w rest x, s.inbox = .word (.frame48 w) :: rest ∧ decode (.frame48 w) = .error x

theorem acceptCmd_of_not_decode {w : CmdWord} {x : Reject} (h : decode (.cmd32 w) = .error x) (t : State) :
    acceptCmd w t = .done (.next (t.raise .illegalCmd)) := by
  unfold acceptCmd
  rw [h]

theorem acceptFrame_of_not_decode {w : FrameWord} {x : Reject} (h : decode (.frame48 w) = .error x) (t : State) :
    acceptFrame w t = .done (.fault .notAFrame) := by
  unfold acceptFrame
  rw [h]

theorem step_of_presentsNonFrame {s : State} (h : s.PresentsNonFrame) : step s = .fault .notAFrame := by
  obtain ⟨w, rest, x, hi, hd⟩ := h
  exact step_of_fetch_done ((fetch_of_frame s w rest hi).trans (acceptFrame_of_not_decode hd _))

theorem step_next_of_not_presentsNonFrame {s : State} (h : ¬ s.PresentsNonFrame) : ∃ t, step s = .next t := by
  rcases hi : s.inbox with _ | ⟨⟨w | w⟩ | ⟨reg, param⟩ | _, rest⟩
  · exact ⟨_, step_of_fetch_done (fetch_of_no_action s hi)⟩
  · cases hb : s.busy
    · have hf := fetch_of_command s w rest hi hb
      rcases hd : decode (.cmd32 w) with x | i
      · exact ⟨_, step_of_fetch_done (hf.trans (acceptCmd_of_not_decode hd _))⟩
      · exact step_next_of_fetch_run (hf.trans (acceptCmd_of_decode hd _))
    · exact ⟨_, step_of_fetch_done (fetch_of_command_busy s w rest hi hb)⟩
  · rcases hd : decode (.frame48 w) with x | i
    · exact absurd ⟨w, rest, x, hi, hd⟩ h
    · exact step_next_of_fetch_run ((fetch_of_frame s w rest hi).trans (acceptFrame_of_decode hd _))
  · exact ⟨_, step_of_fetch_done (fetch_of_codec s reg param rest hi)⟩
  · cases hb : s.busy
    · exact ⟨_, step_of_fetch_done (fetch_of_rst s rest hi hb)⟩
    · exact ⟨_, step_of_fetch_done (fetch_of_rst_busy s rest hi hb)⟩

/-- Settles O39: presented such a word the step is the fault, and else there is a next state. -/
theorem stepStopsOnlyOnNonFrames : Obligations.StepStopsOnlyOnNonFrames := by
  unfold Obligations.StepStopsOnlyOnNonFrames
  intro s
  by_cases h : s.PresentsNonFrame
  · rw [step_of_presentsNonFrame h]
    exact ⟨fun _ => nofun, fun .notAFrame => ⟨fun _ => h, fun _ => rfl⟩⟩
  · obtain ⟨t, ht⟩ := step_next_of_not_presentsNonFrame h
    rw [ht]
    exact ⟨fun _ => nofun, fun _ => ⟨nofun, fun hp => absurd hp h⟩⟩

end Sys2Proof.Machine

namespace Sys2Proof.Machine

open Sys2Proof

/-! ## The frame codec (41_frame_codec.md) -/

/-! ### The bytes of an encoded frame (R130, R132) -/

/-- The registers with a 16-bit parameter (R93). -/
theorem wide_iff_reset_or_baudrate {r : Register} : r.wide = true ↔ r = .reset ∨ r = .baudrate := by
  cases r <;> decide

theorem paramHighByte_of_wide {r : Register} (h : r.wide = true) (v : Half) : paramHighByte r v = v.extractLsb' 8 8 :=
  if_pos h

theorem paramHighByte_of_not_wide {r : Register} (h : ¬ r.wide = true) (v : Half) : paramHighByte r v = 0x00 :=
  if_neg h

theorem frameChecksum_sum_toNat (b0 b1 b2 b3 b4 : Byte) :
    (frameChecksum .sum b0 b1 b2 b3 b4).toNat = (b0.toNat + b1.toNat + b2.toNat + b3.toNat + b4.toNat) % 256 := by
  simp [frameChecksum]

/-- The sum kept modulo 256 is the addition of bytes. -/
theorem frameChecksum_sum_eq_add (b0 b1 b2 b3 b4 : Byte) :
    frameChecksum .sum b0 b1 b2 b3 b4 = b0 + b1 + b2 + b3 + b4 := by
  apply BitVec.eq_of_toNat_eq
  simp [frameChecksum_sum_toNat]

/-- Settles O4: the high byte by the register's class, the low byte, the checksum by the policy. -/
theorem encodeBytesInNumbers : Obligations.EncodeBytesInNumbers := by
  unfold Obligations.EncodeBytesInNumbers
  intro p r param
  obtain ⟨hhigh, hlow⟩ := half_bytes_toNat param
  refine ⟨rfl, rfl, rfl, fun hr => ?_, fun hr => ?_, hlow, ?_⟩
  · rw [encodeFrame_paramHigh, paramHighByte_of_wide (wide_iff_reset_or_baudrate.mpr hr), hhigh]
  · exact paramHighByte_of_not_wide (mt wide_iff_reset_or_baudrate.mp hr) param
  · cases p with
    | xor => rfl
    | sum => exact frameChecksum_sum_eq_add ..

/-! ### The checksum of a frame with the constant headers (R133) -/

theorem frameChecksum_xor_headers (b2 b3 b4 : Byte) :
    frameChecksum .xor 0x57 0x68 b2 b3 b4 = 0x3F ^^^ b2 ^^^ b3 ^^^ b4 := rfl

/-- Equal parameter bytes cancel under the XOR-fold. -/
theorem frameChecksum_xor_equal_params (b2 b : Byte) : frameChecksum .xor 0x57 0x68 b2 b b = 0x3F ^^^ b2 := by
  rw [frameChecksum_xor_headers, BitVec.xor_assoc, BitVec.xor_self, BitVec.xor_zero]

/-- Settles O5: the folded headers, the cancelled parameter bytes, and the three frames by evaluation. -/
theorem checksumReductions : Obligations.ChecksumReductions := by
  unfold Obligations.ChecksumReductions
  refine ⟨frameChecksum_xor_headers, frameChecksum_sum_toNat 0x57 0x68, fun b2 b => ?_, ?_⟩
  · rw [frameChecksum_xor_equal_params, frameChecksum_xor_equal_params]
  · decide

/-! ### The frame rows on the codec port (R47, R134 to R140; log 1) -/

/-- An id of R93 with a parameter of its register's class is a valid input of the port, and the port answers the frame. -/
theorem drivePort_answers (s : State) {r : Register} {v : Half} (h : codecValid r.id v = true) :
    (s.drivePort r.id v).encOk = true ∧
    (s.drivePort r.id v).encFrame = some (encodeFrame s.cfg.cksum r v).toBits := by
  obtain ⟨q, hq, he⟩ := codecEncode_of_valid h s.cfg.cksum
  obtain rfl : r = q := Option.some.inj ((Register.ofId_id r).symm.trans hq)
  exact ⟨h, congrArg (Option.map Frame.toBits) he⟩

/-- A byte is at most 0xFF, whatever the register. -/
theorem codecValid_id_of_byte (r : Register) (b : Byte) : codecValid r.id (b.setWidth 16) = true := by
  have hb : b.setWidth 16 ≤ 0x00FF#16 := by bv_omega
  simp [codecValid, hb]

theorem codecValid_id_of_wide {r : Register} (h : r.wide = true) (v : Half) : codecValid r.id v = true := by
  simp [codecValid, h]

/-- A row that drives a single-byte register's id and a byte (R134 to R138). -/
theorem byteRow_encodes {i : Instr} {s : State} (r : Register) (hr : r.wide = false) (b : Byte)
    (h : exec i s = .next (s.drivePort r.id (b.setWidth 16))) :
    ∃ t, exec i s = .next t ∧ t = { s with encReg := r.id, encParam := b.setWidth 16 } ∧ t.encOk = true ∧
      t.encFrame = some (frameOf s.cfg.cksum r.id 0x00 b).toBits := by
  rw [← encodeFrame_of_byte _ r hr b]
  exact ⟨_, h, rfl, drivePort_answers s (codecValid_id_of_byte r b)⟩

/-- A row that drives a 16-bit register's id and a parameter (R139, R140). -/
theorem wideRow_encodes {i : Instr} {s : State} (r : Register) (hr : r.wide = true) (v : Half)
    (h : exec i s = .next (s.drivePort r.id v)) :
    ∃ t, exec i s = .next t ∧ t = { s with encReg := r.id, encParam := v } ∧ t.encOk = true ∧
      t.encFrame = some (frameOf s.cfg.cksum r.id (v.extractLsb' 8 8) (v.extractLsb' 0 8)).toBits := by
  rw [← paramHighByte_of_wide hr v, ← encodeFrame_eq_frameOf]
  exact ⟨_, h, rfl, drivePort_answers s (codecValid_id_of_wide hr v)⟩

/-- Settles O9: each row drives its register's id and its byte. -/
theorem singleByteFrameRowsEncode : Obligations.SingleByteFrameRowsEncode := by
  unfold Obligations.SingleByteFrameRowsEncode
  exact fun value _ _ => ⟨byteRow_encodes .mode rfl value rfl, byteRow_encodes .channelEnable rfl value rfl,
    byteRow_encodes .angle1 rfl value rfl, byteRow_encodes .angle2 rfl value rfl,
    byteRow_encodes .frequency rfl value rfl⟩

/-- Settles O10: each row drives its register's id and its parameter. -/
theorem wideFrameRowsEncode : Obligations.WideFrameRowsEncode := by
  unfold Obligations.WideFrameRowsEncode
  exact fun param _ _ => ⟨wideRow_encodes .reset rfl param rfl, wideRow_encodes .baudrate rfl param rfl⟩

end Sys2Proof.Machine

namespace Sys2Proof.Machine

open Sys2Proof

/-! ## The device session (42_device_session.md) -/

/-! ### The two ways a session command ends its step -/

theorem answersAtOnce_of_finish {i : Instr} {s : State} {st : Status} (h : exec i s = .next (s.finish st)) :
    AnswersAtOnce i s st := by
  rw [AnswersAtOnce, h, State.finish_eq_answered]

theorem State.sentOutcome_inflight_irrelevant (s : State) (q : Option Request) (f : Frame) (n : Nat) (e : Env) :
    ({ s with inflight := q } : State).sentOutcome f n e = s.sentOutcome f n e := by
  cases n <;> rfl

/-- A write answered Ok goes on to its settle wait (R160). -/
theorem State.issue_of_ok {s : State} {e : Env} (h : s.env.pollSink = (some .ok, e)) (r : Register) (v : Half) :
    s.issue r v = s.sentOutcome (encodeFrame s.cfg.cksum r v) e.pollTimer.1 e.pollTimer.2 := by
  rw [State.issue, State.request_sinkWrite, h]
  exact State.sentOutcome_inflight_irrelevant ..

/-- A write answered IoErr ends the command with no settle wait (R181). -/
theorem State.issue_of_ioErr {s : State} {e : Env} (h : s.env.pollSink = (some .ioErr, e)) (r : Register) (v : Half) :
    s.issue r v = s.answered [.frame (encodeFrame s.cfg.cksum r v) .ioErr] .ioError e := by
  rw [State.issue, State.request_sinkWrite, h]
  rfl

/-- A command that issues a frame after its writes, which leave the parameters and the agents alone, sends it as R160
says. -/
theorem sendsFrame_of_issue {i : Instr} {s t : State} {r : Register} {v : Half} {f : Frame}
    (h : exec i s = .next (t.issue r v)) (hcfg : t.cfg = s.cfg) (henv : t.env = s.env)
    (hf : encodeFrame s.cfg.cksum r v = f) : SendsFrame i s t f := by
  subst hf
  rw [SendsFrame, ← hcfg, ← henv]
  refine fun e => ⟨fun n e' hsink htimer => ⟨_, h, ?_⟩, fun hsink => ?_⟩
  · rw [State.issue_of_ok hsink, htimer]
    exact State.sentOutcome_settles ..
  · rw [h, State.issue_of_ioErr hsink]

/-! ### The frames in numbers (R94, R95) -/

/-- The frame of a 16-bit register carries its parameter big-endian (R94). -/
theorem encodeFrame_of_wide (p : Cksum) {r : Register} (h : r.wide = true) (v : Half) :
    encodeFrame p r v =
      frameOf p r.id (BitVec.ofNat 8 (v.toNat / 256)) (BitVec.ofNat 8 (v.toNat % 256)) := by
  obtain ⟨hhigh, hlow⟩ := half_bytes_toNat v
  rw [encodeFrame_eq_frameOf, paramHighByte_of_wide h, ← hhigh, ← hlow, BitVec.ofNat_toNat, BitVec.ofNat_toNat,
    BitVec.setWidth_eq, BitVec.setWidth_eq]

/-- A frame that carries the low byte of DATA (R169, R172). -/
theorem encodeFrame_of_byteParam (p : Cksum) (r : Register) (h : r.wide = false) (data : BitVec 24) :
    encodeFrame p r (byteParam data) = frameOf p r.id 0x00 (BitVec.ofNat 8 data.toNat) :=
  encodeFrame_of_byte p r h (data.extractLsb' 0 8)

/-- A delay that fits 16 bits is the parameter (R175). -/
theorem halfParam_toNat {data : BitVec 24} (h : data.toNat ≤ 0xFFFF) : (halfParam data).toNat = data.toNat := by
  simp only [halfParam, BitVec.extractLsb'_toNat, Nat.shiftRight_zero]
  omega

/-! ### The operands by value (R161, R163, R169) -/

theorem reservedSet_iff {n : Nat} {v : BitVec n} : reservedSet v = true ↔ v ≠ 0 := by
  simp [reservedSet]

theorem channelOf_eq_none_iff {ch : BitVec 4} : channelOf ch = none ↔ ch ≠ 1 ∧ ch ≠ 2 := by
  revert ch
  decide

/-! ### SETMODE (R161) -/

theorem exec_setmode_of_refused {ch : BitVec 4} {data : BitVec 24} (h : ch ≠ 0 ∨ 1 < data.toNat) (s : State) :
    exec (.setmode ch data) s = .next (s.finish .invalidParam) := by
  simp only [exec, execSetmode, reservedSet_iff, State.raise_eq_finish]
  obtain hch | hdata := h
  · rw [if_pos hch]
  · rw [if_pos (show data > 1 from hdata), ite_self]

theorem exec_setmode_of_le {data : BitVec 24} (h : data.toNat ≤ 1) (s : State) :
    exec (.setmode 0 data) s = .next ((s.setLastMode (modeOf data)).issue .mode (bitParam data)) := by
  simp only [exec, execSetmode, reservedSet_iff]
  rw [if_neg (by simp), if_neg (show ¬ data > 1 from Nat.not_lt.mpr h)]

/-- Settles O11: refused by CH or by DATA; the mode is recorded and its bit sent. -/
theorem setmodeSendsModeFrame : Obligations.SetmodeSendsModeFrame := by
  unfold Obligations.SetmodeSendsModeFrame
  intro ch data s
  refine ⟨decode_encode (.setmode ch data), fun h => answersAtOnce_of_finish (exec_setmode_of_refused h s), ?_, ?_⟩
  · rintro rfl rfl
    exact sendsFrame_of_issue (exec_setmode_of_le (by decide) s) rfl rfl (encodeFrame_of_byte _ .mode rfl 0x00)
  · rintro rfl rfl
    exact sendsFrame_of_issue (exec_setmode_of_le (by decide) s) rfl rfl (encodeFrame_of_byte _ .mode rfl 0x01)

/-! ### ENCH and DISCH (R163, R166) -/

/-- ENCH and DISCH refuse the same operands. -/
theorem exec_mask_commands_of_refused {ch : BitVec 4} {data : BitVec 24} (h : data ≠ 0 ∨ (ch ≠ 1 ∧ ch ≠ 2))
    (s : State) :
    exec (.ench ch data) s = .next (s.finish .invalidParam) ∧
    exec (.disch ch data) s = .next (s.finish .invalidParam) := by
  simp only [exec, execEnch, execDisch, reservedSet_iff, State.raise_eq_finish]
  obtain hdata | hch := h
  · simp only [if_pos hdata, and_self]
  · simp only [channelOf_eq_none_iff.mpr hch, ite_self, and_self]

theorem exec_ench_of_channel {ch : BitVec 4} {c : Channel} (h : channelOf ch = some c) (s : State) :
    exec (.ench ch 0) s =
      .next ((s.setMask (maskEnabling s.mask c)).issue .channelEnable (maskParam (maskEnabling s.mask c))) := by
  simp only [exec, execEnch, h]
  rfl

theorem exec_disch_of_channel {ch : BitVec 4} {c : Channel} (h : channelOf ch = some c) (s : State) :
    exec (.disch ch 0) s =
      .next ((s.setMask (maskDisabling s.mask c)).issue .channelEnable (maskParam (maskDisabling s.mask c))) := by
  simp only [exec, execDisch, h]
  rfl

/-- A command that writes the mask and issues it sends all of it, the mask committed first (R183). -/
theorem sendsFrame_of_mask {i : Instr} {s : State} {m : BitVec 8}
    (h : exec i s = .next ((s.setMask m).issue .channelEnable (maskParam m))) :
    SendsFrame i s { s with mask := m } (frameOf s.cfg.cksum 0x02 0x00 m) :=
  sendsFrame_of_issue h rfl rfl (encodeFrame_of_byte _ .channelEnable rfl m)

/-- Settles O12: refused by DATA or by CH; each channel's bit is set and the mask sent. -/
theorem enchSendsFullMask : Obligations.EnchSendsFullMask := by
  unfold Obligations.EnchSendsFullMask
  intro ch data s
  refine ⟨decode_encode (.ench ch data), fun h => answersAtOnce_of_finish (exec_mask_commands_of_refused h s).1, ?_, ?_, ?_⟩
  · rintro rfl rfl
    exact sendsFrame_of_mask (exec_ench_of_channel (c := .one) rfl s)
  · rintro rfl rfl
    exact sendsFrame_of_mask (exec_ench_of_channel (c := .two) rfl s)
  · exact fun h => ⟨(maskEnabling_range s.mask .one).trans h, (maskEnabling_range s.mask .two).trans h⟩

/-- Settles O13: refused by DATA or by CH; each channel's bit is cleared and the mask sent. -/
theorem dischSendsFullMask : Obligations.DischSendsFullMask := by
  unfold Obligations.DischSendsFullMask
  intro ch data s
  refine ⟨decode_encode (.disch ch data), fun h => answersAtOnce_of_finish (exec_mask_commands_of_refused h s).2, ?_, ?_⟩
  · rintro rfl rfl
    exact sendsFrame_of_mask (exec_disch_of_channel (c := .one) rfl s)
  · rintro rfl rfl
    exact sendsFrame_of_mask (exec_disch_of_channel (c := .two) rfl s)

/-! ### The mask over two commands (R165, R167) -/

/-- After `issue` the mask is the one before it, whatever the sink answers (R183). -/
@[simp] theorem State.issue_mask (s : State) (r : Register) (v : Half) : (s.issue r v).mask = s.mask := by
  obtain ⟨_, _, _, _, _, h⟩ := s.issue_writes r v
  rw [h]

/-- A write answered Ok logs its frame first. -/
theorem State.issue_trace_of_ok {s : State} {e : Env} (h : s.env.pollSink = (some .ok, e)) (r : Register) (v : Half) :
    ∃ rest, (s.issue r v).trace = s.trace ++ .frame (encodeFrame s.cfg.cksum r v) .ok :: rest := by
  rw [State.issue_of_ok h]
  cases e.pollTimer.1 with
  | zero => exact ⟨[.settle s.cfg.settleMs], rfl⟩
  | succ left => exact ⟨[], rfl⟩

/-- A command that writes the mask and issues it: with an Ok sink the frame with all of it is logged first, and the mask
stays. -/
theorem logs_mask_of_ok {i : Instr} {s : State} {e : Env} {m : BitVec 8}
    (h : exec i s = .next ((s.setMask m).issue .channelEnable (maskParam m)))
    (hsink : s.env.pollSink = (some .ok, e)) :
    ∃ t f rest, exec i s = .next t ∧ t.trace = s.trace ++ .frame f .ok :: rest ∧
      f.register = 0x02 ∧ f.paramLow = m ∧ t.mask = m := by
  obtain ⟨rest, ht⟩ := State.issue_trace_of_ok (s := s.setMask m) hsink .channelEnable (maskParam m)
  have hf := encodeFrame_of_byte s.cfg.cksum .channelEnable rfl m
  exact ⟨_, _, rest, h, ht, rfl, congrArg Frame.paramLow hf, State.issue_mask ..⟩

theorem maskEnabling_two_one {m : BitVec 8} (h : m &&& 0xFC#8 = 0#8) :
    maskEnabling (maskEnabling m .one) .two = 0x03 := by
  revert m
  decide

/-- Settles O18: ENCH 1 leaves its bit in the mask, and ENCH 2 sends that mask with its own bit. -/
theorem enablingAccumulates : Obligations.EnablingAccumulates := by
  unfold Obligations.EnablingAccumulates
  intro s hrange
  refine ⟨_, exec_ench_of_channel (c := .one) rfl s, fun u e hmask hsink => ?_⟩
  have hboth : maskEnabling u.mask .two = 0x03 := by
    rw [hmask, State.issue_mask, State.setMask_mask]
    exact maskEnabling_two_one hrange
  have hexec := exec_ench_of_channel (ch := 2) (c := .two) rfl u
  rw [hboth] at hexec
  exact logs_mask_of_ok hexec hsink

/-- Settles O19: the mask without bit 0 is sent. -/
theorem disablingKeepsOtherChannel : Obligations.DisablingKeepsOtherChannel := by
  unfold Obligations.DisablingKeepsOtherChannel
  intro s e hmask hsink
  have hexec := exec_disch_of_channel (ch := 1) (c := .one) rfl s
  rw [hmask] at hexec
  exact logs_mask_of_ok hexec hsink

/-! ### SETANG (R169, R171) -/

theorem exec_setang_of_refused {ch : BitVec 4} {data : BitVec 24} (h : (ch ≠ 1 ∧ ch ≠ 2) ∨ 179 < data.toNat)
    (s : State) : exec (.setang ch data) s = .next (s.finish .invalidParam) := by
  simp only [exec, execSetang, State.raise_eq_finish]
  obtain hch | hdata := h
  · rw [channelOf_eq_none_iff.mpr hch]
  · cases channelOf ch with
    | none => rfl
    | some c => exact congrArg _ (if_pos hdata)

theorem exec_setang_of_channel {ch : BitVec 4} {c : Channel} {data : BitVec 24} (hch : channelOf ch = some c)
    (hdata : data.toNat ≤ 179) (s : State) :
    exec (.setang ch data) s = .next (s.issue (angleRegister c) (byteParam data)) := by
  simp only [exec, execSetang, hch]
  rw [if_neg (show ¬ data > 179 from Nat.not_lt.mpr hdata)]

/-- Settles O14: refused by CH or by the angle; each channel has its register. -/
theorem setangSendsAngleFrame : Obligations.SetangSendsAngleFrame := by
  unfold Obligations.SetangSendsAngleFrame
  intro ch data s
  refine ⟨decode_encode (.setang ch data), fun h => answersAtOnce_of_finish (exec_setang_of_refused h s), ?_, ?_⟩
  · rintro rfl hdata
    exact sendsFrame_of_issue (exec_setang_of_channel (c := .one) rfl hdata s) rfl rfl
      (encodeFrame_of_byteParam _ .angle1 rfl data)
  · rintro rfl hdata
    exact sendsFrame_of_issue (exec_setang_of_channel (c := .two) rfl hdata s) rfl rfl
      (encodeFrame_of_byteParam _ .angle2 rfl data)

/-! ### SETFREQ (R172) -/

theorem exec_setfreq_of_refused {ch : BitVec 4} (h : ch ≠ 0) (data : BitVec 24) (s : State) :
    exec (.setfreq ch data) s = .next (s.finish .invalidParam) := by
  simp only [exec, execSetfreq, reservedSet_iff, if_pos h, State.raise_eq_finish]

theorem exec_setfreq_of_mains {data : BitVec 24} (h : data = 50 ∨ data = 60) (s : State) :
    exec (.setfreq 0 data) s = .next (s.issue .frequency (byteParam data)) := by
  simp only [exec, execSetfreq, if_pos h]
  rfl

theorem exec_setfreq_of_other {data : BitVec 24} (h : ¬ (data = 50 ∨ data = 60)) (s : State) :
    exec (.setfreq 0 data) s = .next (s.finish .ok) := by
  simp only [exec, execSetfreq, if_neg h]
  rfl

/-- Settles O15: refused by CH; the two mains frequencies are sent, any other is ignored. -/
theorem setfreqSendsOrIgnores : Obligations.SetfreqSendsOrIgnores := by
  unfold Obligations.SetfreqSendsOrIgnores
  intro ch data s
  refine ⟨decode_encode (.setfreq ch data), fun h => answersAtOnce_of_finish (exec_setfreq_of_refused h data s),
    ?_, ?_, ?_⟩
  · rintro rfl rfl
    exact sendsFrame_of_issue (exec_setfreq_of_mains (.inl rfl) s) rfl rfl (encodeFrame_of_byteParam _ .frequency rfl 50)
  · rintro rfl rfl
    exact sendsFrame_of_issue (exec_setfreq_of_mains (.inr rfl) s) rfl rfl (encodeFrame_of_byteParam _ .frequency rfl 60)
  · rintro rfl h50 h60
    exact answersAtOnce_of_finish (exec_setfreq_of_other (not_or.mpr ⟨h50, h60⟩) s)

/-! ### RESET (R175, R176) -/

theorem exec_reset_of_refused {ch : BitVec 4} {data : BitVec 24} (h : ch ≠ 0 ∨ 0xFFFF < data.toNat) (s : State) :
    exec (.reset ch data) s = .next (s.finish .invalidParam) := by
  simp only [exec, execReset, reservedSet_iff, State.raise_eq_finish]
  obtain hch | hdata := h
  · rw [if_pos hch]
  · rw [if_pos (show data > 0xFFFF from hdata), ite_self]

theorem exec_reset_of_le {data : BitVec 24} (h : data.toNat ≤ 0xFFFF) (s : State) :
    exec (.reset 0 data) s = .next (s.issue .reset (halfParam data)) := by
  simp only [exec, execReset, reservedSet_iff]
  rw [if_neg (by simp), if_neg (show ¬ data > 0xFFFF from Nat.not_lt.mpr h)]

/-- Settles O16: refused by CH or by the delay; the delay is sent as it is. -/
theorem resetSendsDelayAndKeepsState : Obligations.ResetSendsDelayAndKeepsState := by
  unfold Obligations.ResetSendsDelayAndKeepsState
  intro ch data s
  refine ⟨decode_encode (.reset ch data), fun h => answersAtOnce_of_finish (exec_reset_of_refused h s), ?_⟩
  rintro rfl hdata
  rw [← halfParam_toNat hdata]
  exact sendsFrame_of_issue (exec_reset_of_le hdata s) rfl rfl (encodeFrame_of_wide _ rfl _)

/-! ### SETBAUD (R178, R179) -/

theorem exec_setbaud_of_refused {ch : BitVec 4} (h : ch ≠ 0) (data : BitVec 24) (s : State) :
    exec (.setbaud ch data) s = .next (s.finish .invalidParam) := by
  simp only [exec, execSetbaud, reservedSet_iff, if_pos h, State.raise_eq_finish]

theorem exec_setbaud_of_unlisted {data : BitVec 24} {s : State} (h : baudCode s.cfg data.toNat = none) :
    exec (.setbaud 0 data) s = .next (s.finish .ok) := by
  simp only [exec, execSetbaud, h]
  rfl

theorem exec_setbaud_of_listed {data : BitVec 24} {s : State} {c : Half} (h : baudCode s.cfg data.toNat = some c) :
    exec (.setbaud 0 data) s = .next (s.issue .baudrate c) := by
  simp only [exec, execSetbaud, h]
  rfl

/-- Settles O17: refused by CH; a rate outside the table is ignored, the code of one in it is sent. -/
theorem setbaudSendsTableCode : Obligations.SetbaudSendsTableCode := by
  unfold Obligations.SetbaudSendsTableCode
  intro ch data s
  refine ⟨decode_encode (.setbaud ch data), fun h => answersAtOnce_of_finish (exec_setbaud_of_refused h data s), ?_, ?_⟩
  · rintro rfl hcode
    exact answersAtOnce_of_finish (exec_setbaud_of_unlisted hcode)
  · rintro c rfl hcode
    exact sendsFrame_of_issue (exec_setbaud_of_listed hcode) rfl rfl (encodeFrame_of_wide _ rfl c)

/-! ### The reference control loop (R190 to R192) -/

theorem ramp_le {c : Nat} (h : c ≤ 359) : ramp c ≤ 179 := by
  unfold ramp
  split <;> omega

theorem rampNext_of_lt {c : Nat} (h : c < 359) : rampNext c = c + 1 := Nat.mod_eq_of_lt (by omega)

/-- Before it wraps, the counter counts the ticks (R190). -/
theorem rampNext_iterate {c : Nat} (h : c < 360) : rampNext^[c] 0 = c := by
  induction c with
  | zero => rfl
  | succ c ih => rw [Function.iterate_succ_apply', ih (by omega), rampNext_of_lt (by omega)]

theorem Asm.setang_instrs {ch angle : Nat} (hc : ch ≤ 15) (ha : angle ≤ 0xFFFFFF) :
    (Asm.setang ch angle).instrs = .ok [.setang (BitVec.ofNat 4 ch) (BitVec.ofNat 24 angle)] := by
  have hch : asmCh ch = .ok (BitVec.ofNat 4 ch) := if_pos hc
  have hdata : asmData angle = .ok (BitVec.ofNat 24 angle) := if_pos ha
  rw [Asm.instrs, hch, hdata]
  rfl

/-- The block admits SETANG to a channel with an angle of at most 179 (R169). -/
theorem setang_wf (p : Cksum) {ch : BitVec 4} {data : BitVec 24} (hch : chNamesChannel ch = true)
    (hdata : data.toNat ≤ 179) : (Instr.setang ch data).wf p = true := by
  simp [Instr.wf, hch, hdata]

/-- Settles O46: the two slopes of the ramp, the counter until it wraps, and the two commands of a tick. -/
theorem rampStaysInAngleDomain : Obligations.RampStaysInAngleDomain := by
  unfold Obligations.RampStaysInAngleDomain
  refine ⟨fun c h => if_pos h, fun c h _ => if_neg (by omega), fun c h => ramp_le h, fun c h => rampNext_of_lt h, rfl,
    fun c h => rampNext_iterate h, ?_, fun c p h => ?_⟩
  · rw [Function.iterate_succ_apply', rampNext_iterate (by omega)]
    rfl
  · have hangle : ramp c ≤ 179 := ramp_le (by omega)
    have hval : (BitVec.ofNat 24 (ramp c)).toNat = ramp c := Nat.mod_eq_of_lt (by omega)
    have hdata : (BitVec.ofNat 24 (ramp c)).toNat ≤ 179 := hval.symm ▸ hangle
    exact ⟨rfl, Asm.setang_instrs (by decide) (by omega), Asm.setang_instrs (by decide) (by omega), hval,
      setang_wf p rfl hdata, setang_wf p rfl hdata⟩

end Sys2Proof.Machine

namespace Sys2Proof.Machine

open Sys2Proof

/-! ## The output line (43_output_line.md) -/

/-! ### The lifecycle and the levels (R200, R203) -/

theorem Line.held_eq_true_iff {l : Line} : l.held = true ↔ ∃ level, l = .init level := by
  cases l <;> simp [Line.held]

theorem Line.held_eq_false_iff {l : Line} : l.held = false ↔ ∀ level, l ≠ .init level := by
  cases l <;> simp [Line.held]

theorem initialPhys_zero (lineAl : Bool) : initialPhys 0 lineAl = if lineAl then .high else .low := by
  cases lineAl <;> rfl

theorem initialPhys_one (lineAl : Bool) : initialPhys 1 lineAl = if lineAl then .low else .high := by
  cases lineAl <;> rfl

/-! ### The requests to the capability, answered (R202, R205, R207) -/

theorem acquiresLine_of_request {i : Instr} {s : State} {level : Level} {lvl : Phys}
    (h : exec i s = .next (s.request (.gpioAcquire level lvl))) : AcquiresLine i s level lvl := by
  rw [AcquiresLine, h, State.request_gpioAcquire]
  refine fun e => ⟨fun ha => ?_, fun ha => ?_⟩ <;> rw [ha] <;> rfl

theorem setsLine_of_request {i : Instr} {s : State} {level : Level} {lvl : Phys}
    (h : exec i s = .next (s.request (.gpioSet level lvl))) : SetsLine i s level lvl := by
  rw [SetsLine, h, State.request_gpioSet]
  refine fun e => ⟨fun ha => ?_, fun ha => ?_⟩ <;> rw [ha] <;> rfl

/-! ### LINIT (R202, R203) -/

/-- LINIT and LSETPOL refuse the same operands. -/
theorem exec_linit_lsetpol_of_refused {ch : BitVec 4} {data : BitVec 24} (h : ch ≠ 0 ∨ 1 < data.toNat) (s : State) :
    exec (.linit ch data) s = .next (s.finish .invalidParam) ∧
    exec (.lsetpol ch data) s = .next (s.finish .invalidParam) := by
  simp only [exec, execLinit, execLsetpol, reservedSet_iff, State.raise_eq_finish]
  obtain hch | hdata := h
  · simp only [if_pos hch, and_self]
  · simp only [if_pos (show data > 1 from hdata), ite_self, and_self]

theorem exec_linit_of_not_uninit {data : BitVec 24} {s : State} (hd : data.toNat ≤ 1) (hl : s.line ≠ .uninit) :
    exec (.linit 0 data) s = .next (s.finish .acqError) := by
  simp only [exec, execLinit, reservedSet_iff]
  rw [if_neg (by simp), if_neg (show ¬ data > 1 from Nat.not_lt.mpr hd)]
  cases hline : s.line with
  | uninit => exact absurd hline hl
  | init | released => rfl

theorem exec_linit_of_uninit {data : BitVec 24} {s : State} (hd : data.toNat ≤ 1) (hl : s.line = .uninit) :
    exec (.linit 0 data) s = .next (s.request (.gpioAcquire (levelOf data) (initialPhys data s.lineAl))) := by
  simp only [exec, execLinit, reservedSet_iff, hl]
  rw [if_neg (by simp), if_neg (show ¬ data > 1 from Nat.not_lt.mpr hd)]

theorem linit_zero_acquiresLine {s : State} (hl : s.line = .uninit) :
    AcquiresLine (.linit 0 0) s .inactive (if s.lineAl then .high else .low) := by
  rw [← initialPhys_zero]
  exact acquiresLine_of_request (exec_linit_of_uninit (by decide) hl)

theorem linit_one_acquiresLine {s : State} (hl : s.line = .uninit) :
    AcquiresLine (.linit 0 1) s .active (if s.lineAl then .low else .high) := by
  rw [← initialPhys_one]
  exact acquiresLine_of_request (exec_linit_of_uninit (by decide) hl)

/-- Settles O21: refused by CH or DATA, then by the lifecycle; a fresh line is acquired at the level of either DATA. -/
theorem linitAcquiresOnlyFreshLine : Obligations.LinitAcquiresOnlyFreshLine := by
  unfold Obligations.LinitAcquiresOnlyFreshLine
  intro ch data s
  refine ⟨decode_encode (.linit ch data),
    fun h => answersAtOnce_of_finish (exec_linit_lsetpol_of_refused h s).1, ?_, ?_, ?_⟩
  · rintro rfl hd hl
    exact answersAtOnce_of_finish (exec_linit_of_not_uninit hd hl)
  · rintro rfl rfl hl
    exact linit_zero_acquiresLine hl
  · rintro rfl rfl hl
    exact linit_one_acquiresLine hl

/-- Settles O22: the level acquired is read off DATA and `LINE_ACTIVE_LOW`, and no other polarity. -/
theorem acquireLevelUsesLineAttribute : Obligations.AcquireLevelUsesLineAttribute := by
  unfold Obligations.AcquireLevelUsesLineAttribute
  intro s d e hl ha
  obtain ⟨hzero, -⟩ := linit_zero_acquiresLine (s := { s with devAl := d }) hl e
  obtain ⟨hone, -⟩ := linit_one_acquiresLine (s := { s with devAl := d }) hl e
  exact ⟨⟨_, hzero ha, rfl, rfl⟩, ⟨_, hone ha, rfl, rfl⟩⟩

/-! ### LON and LOFF (R205 to R208) -/

theorem exec_lon_loff_of_refused {ch : BitVec 4} {data : BitVec 24} (h : ch ≠ 0 ∨ data ≠ 0) (s : State) :
    exec (.lon ch data) s = .next (s.finish .invalidParam) ∧
    exec (.loff ch data) s = .next (s.finish .invalidParam) := by
  simp only [exec, execLon, execLoff, Bool.or_eq_true, reservedSet_iff, if_pos h, State.raise_eq_finish, and_self]

theorem exec_lon_loff_of_not_held {s : State} (h : s.line.held = false) :
    exec (.lon 0 0) s = .next (s.finish .notInit) ∧ exec (.loff 0 0) s = .next (s.finish .notInit) := by
  cases hline : s.line with
  | init level => exact absurd hline (Line.held_eq_false_iff.mp h level)
  | uninit | released =>
    simp only [exec, execLon, execLoff, hline]
    exact ⟨rfl, rfl⟩

theorem exec_lon_loff_of_held {s : State} (h : s.line.held = true) :
    exec (.lon 0 0) s = .next (s.request (.gpioSet .active (onPhys s.devAl))) ∧
    exec (.loff 0 0) s = .next (s.request (.gpioSet .inactive (offPhys s.devAl))) := by
  obtain ⟨level, hline⟩ := Line.held_eq_true_iff.mp h
  simp only [exec, execLon, execLoff, hline]
  exact ⟨rfl, rfl⟩

/-- Settles O23: refused by the operands, then by the lifecycle; in INIT each drives its level of the table of R206. -/
theorem lonAndLoffDriveThroughDevicePolarity : Obligations.LonAndLoffDriveThroughDevicePolarity := by
  unfold Obligations.LonAndLoffDriveThroughDevicePolarity
  intro ch data s
  refine ⟨⟨decode_encode (.lon ch data), decode_encode (.loff ch data)⟩, fun h => ?_, ?_, ?_⟩
  · obtain ⟨hon, hoff⟩ := exec_lon_loff_of_refused h s
    exact ⟨answersAtOnce_of_finish hon, answersAtOnce_of_finish hoff⟩
  · rintro rfl rfl hl
    obtain ⟨hon, hoff⟩ := exec_lon_loff_of_not_held hl
    exact ⟨answersAtOnce_of_finish hon, answersAtOnce_of_finish hoff⟩
  · rintro rfl rfl hl
    obtain ⟨hon, hoff⟩ := exec_lon_loff_of_held hl
    exact ⟨setsLine_of_request hon, setsLine_of_request hoff⟩

/-! ### LSETPOL (R209, R210) -/

theorem exec_lsetpol_of_le {data : BitVec 24} (h : data.toNat ≤ 1) (s : State) :
    exec (.lsetpol 0 data) s = .next ((s.setDevAl (decide (data = 1))).finish .ok) := by
  simp only [exec, execLsetpol, reservedSet_iff, State.returnOk_eq_finish]
  rw [if_neg (by simp), if_neg (show ¬ data > 1 from Nat.not_lt.mpr h)]

/-- Settles O24: refused by CH or DATA; the polarity is the bit of DATA, and the line is not looked at. -/
theorem lsetpolWritesPolarityOnly : Obligations.LsetpolWritesPolarityOnly := by
  unfold Obligations.LsetpolWritesPolarityOnly
  intro ch data s
  refine ⟨decode_encode (.lsetpol ch data),
    fun h => answersAtOnce_of_finish (exec_linit_lsetpol_of_refused h s).2, ?_, ?_⟩
  · rintro rfl rfl
    rw [exec_lsetpol_of_le (by decide), State.finish_eq_answered]
    rfl
  · rintro rfl rfl
    rw [exec_lsetpol_of_le (by decide), State.finish_eq_answered]
    rfl

/-! ### LREL (R211, R212) -/

theorem exec_lrel (ch : BitVec 4) (data : BitVec 24) (s : State) :
    exec (.lrel ch data) s = .next (s.releaseLine.finish .ok) := rfl

@[simp] theorem State.releaseLine_line (s : State) : s.releaseLine.line = .released := by
  rcases s.releaseLine_cases with ⟨-, h⟩ | ⟨-, h⟩ <;> rw [h]

/-- A released line is not released again (R212). -/
theorem State.releaseLine_of_released {s : State} (h : s.line = .released) : s.releaseLine = s := by
  rw [State.releaseLine, h]

theorem State.releaseLine_of_held {s : State} (h : s.line.held = true) :
    s.releaseLine = { s with line := .released, trace := s.trace ++ [.grel] } := by
  rcases s.releaseLine_cases with ⟨-, hr⟩ | ⟨hnot, -⟩
  · exact hr
  · exact nomatch h.symm.trans (Line.held_eq_false_iff.mpr hnot)

theorem State.releaseLine_of_not_held {s : State} (h : s.line.held = false) :
    s.releaseLine = { s with line := .released } := by
  rcases s.releaseLine_cases with ⟨hinit, -⟩ | ⟨-, hr⟩
  · exact nomatch h.symm.trans (Line.held_eq_true_iff.mpr hinit)
  · exact hr

/-- Settles O25: a held line is released with its GREL, one not held without. -/
theorem lrelReleasesAndNeverFails : Obligations.LrelReleasesAndNeverFails := by
  unfold Obligations.LrelReleasesAndNeverFails
  intro ch data s
  refine ⟨decode_encode (.lrel ch data), fun hl => ?_, fun hl => ?_⟩
  · rw [exec_lrel, State.releaseLine_of_held hl]
    rfl
  · rw [exec_lrel, State.releaseLine_of_not_held hl, State.finish_eq_answered]

/-- Settles O26: the first LREL leaves the line RELEASED with nothing in flight, so the second only answers. -/
theorem lrelTwiceIsIdempotent : Obligations.LrelTwiceIsIdempotent := by
  unfold Obligations.LrelTwiceIsIdempotent
  intro ch ch' data data' s
  have hline : (s.releaseLine.finish .ok).line = .released := s.releaseLine_line
  refine ⟨_, _, exec_lrel ch data s, exec_lrel ch' data' _, ?_⟩
  rw [State.releaseLine_of_released hline]
  rfl

/-! ### RELEASED is terminal (R200) -/

/-- A poll writes the lifecycle only with the answer to a request to the capability. -/
theorem State.poll_line_cases (s : State) :
    s.poll.line = s.line ∨ (∃ level lvl, s.inflight = some (.gpioAcquire level lvl)) ∨
    (∃ level lvl, s.inflight = some (.gpioSet level lvl)) := by
  rcases s.poll_cases with ⟨-, h⟩ | ⟨-, e, h⟩ | ⟨f, e, -, h⟩ | ⟨f, left, e, -, h⟩ | ⟨-, h⟩ | ⟨left, -, h⟩ |
    ⟨f, e, -, h⟩ | ⟨l, p, e, h, -⟩ | ⟨l, p, e, h, -⟩ | ⟨l, p, e, h, -⟩ | ⟨l, p, e, h, -⟩ <;> simp [h]

/-- A released line has no request to the capability in flight. -/
theorem State.poll_line_of_released {s : State} (ha : s.LineAgrees) (hl : s.line = .released) :
    s.poll.line = .released := by
  rcases s.poll_line_cases with h | ⟨l, p, hi⟩ | ⟨l, p, hi⟩
  · exact h.trans hl
  · obtain ⟨hu, -⟩ := ha.fresh_of_acquire hi
    exact nomatch hl.symm.trans hu
  · obtain ⟨⟨l', hu⟩, -⟩ := ha.held_of_set hi
    exact nomatch hl.symm.trans hu

/-- No instruction makes a request to the capability on a released line, nor writes its lifecycle otherwise. -/
theorem exec_line_of_released {i : Instr} {s t : State} (hl : s.line = .released) (he : exec i s = .next t) :
    t.line = .released := by
  cases hc : i.isCommand
  · obtain ⟨r, v, h⟩ := exec_frame_cases i s hc
    obtain rfl := Host.Outcome.next.inj (h.symm.trans he)
    exact hl
  cases hs : i.isSession
  · rcases exec_line_cases i s hc hs with ⟨st, h⟩ | ⟨hu, -⟩ | ⟨⟨l, hu⟩, -⟩ | ⟨b, h⟩ | h
    · obtain rfl := Host.Outcome.next.inj (h.symm.trans he)
      exact hl
    · exact nomatch hl.symm.trans hu
    · exact nomatch hl.symm.trans hu
    · obtain rfl := Host.Outcome.next.inj (h.symm.trans he)
      exact hl
    · obtain rfl := Host.Outcome.next.inj (h.symm.trans he)
      exact s.releaseLine_line
  · rcases exec_session_cases i s hs with ⟨st, -, h⟩ | ⟨m, md, r, v, -, h⟩
    · obtain rfl := Host.Outcome.next.inj (h.symm.trans he)
      exact hl
    · obtain rfl := Host.Outcome.next.inj (h.symm.trans he)
      obtain ⟨_, _, _, _, _, hw⟩ := ({ s with mask := m, lastMode := md } : State).issue_writes r v
      rw [hw]
      exact hl

/-- Settles O27: each way of a step but the `RST` leaves the lifecycle. -/
theorem releasedIsTerminal : Obligations.ReleasedIsTerminal := by
  unfold Obligations.ReleasedIsTerminal
  intro s t ha hl hst
  rcases step_cases hst with rfl | ⟨rest, -, rfl⟩ | ⟨rest, hi, hn, -⟩ | ⟨rest, r, v, rfl⟩ | ⟨rest, i, -, he⟩ |
    ⟨rest, i, -, -, he⟩
  · exact .inl (State.poll_line_of_released ha hl)
  · exact .inl hl
  · exact .inr ⟨by simp [hn], rest, hi⟩
  · exact .inl hl
  · exact .inl (exec_line_of_released (s := { s with inbox := rest }) hl he)
  · exact .inl (exec_line_of_released (s := { s with inbox := rest }) hl he)

/-! ### The release over the whole trace (R212) -/

/-- How often the handle has been given back. -/
def Handle.releases : Handle → Nat
  | .fresh | .held => 0
  | .given         => 1

/-- An event that is no breach of the protocol counts as a release exactly when it is a GREL. -/
theorem releases_of_handleAfter {h h' : Handle} {ev : Event} (he : handleAfter (some h) ev = some h') :
    h.releases + [ev].count .grel = h'.releases := by
  cases ev with
  | frame | settle =>
    obtain rfl : h = h' := by simpa using he
    simp
  | gacq chip offset lvl r => cases h <;> cases r <;> cases he <;> rfl
  | gset | grel =>
    -- Only a held handle takes a set or a release.
    cases h <;> cases he
    rfl

/-- The GREL of a trace without a breach are counted by the handle it leaves. -/
theorem count_grel_of_foldl_handleAfter {h h' : Handle} {t : List Event}
    (ht : t.foldl handleAfter (some h) = some h') : h.releases + t.count .grel = h'.releases := by
  induction t generalizing h with
  | nil =>
    obtain rfl := Option.some.inj ht
    rfl
  | cons ev t ih =>
    rw [List.foldl_cons] at ht
    cases hev : handleAfter (some h) ev with
    | none => simp [hev, foldl_handleAfter_none] at ht
    | some k =>
      have hstep := releases_of_handleAfter hev
      have hrest := ih (hev ▸ ht)
      rw [← List.singleton_append, List.count_append]
      omega

/-- A line that agrees with its trace has released at most once, and only if it is RELEASED. -/
theorem Line.agrees.count_grel {l : Line} {t : List Event} (h : l.agrees (traceHandle t)) :
    t.count .grel = 0 ∨ (t.count .grel = 1 ∧ l = .released) := by
  have hcount : ∀ k, traceHandle t = some k → t.count .grel = k.releases :=
    fun k hk => (Nat.zero_add _).symm.trans (count_grel_of_foldl_handleAfter hk)
  cases l with
  | uninit | init => exact .inl (hcount _ h)
  | released =>
    obtain hg | hf := h
    · exact .inr ⟨hcount _ hg, rfl⟩
    · exact .inl (hcount _ hf)

/-- Settles O55: the line's agreement with the trace counts the releases. -/
theorem releaseIssuedAtMostOnce : Obligations.ReleaseIssuedAtMostOnce := by
  unfold Obligations.ReleaseIssuedAtMostOnce
  intro s hinv
  obtain ⟨hagrees, -, -⟩ := hinv.line
  obtain h | ⟨h, hl⟩ := hagrees.count_grel
  · exact ⟨by omega, fun hm => absurd hm (List.count_eq_zero.mp h)⟩
  · exact ⟨h.le, fun _ => hl⟩

end Sys2Proof.Machine

namespace Sys2Proof.Machine

open Sys2Proof

/-! ## The statuses (60_exceptions.md) -/

/-! ### The outcome of a command that no check refuses (R46, R231, R232) -/

/-- From `s` to `t` a command goes on that no check refuses: it is over with one response, OK or an agent's error; or it is
in flight with no response yet, having logged nothing or the one frame whose settle timer runs. -/
def State.ProceedsTo (s t : State) : Prop :=
  (∃ st, (st = .ok ∨ st = .ioError ∨ st = .acqError) ∧ t.busy = false ∧ t.rsp = some st ∧
    t.responses = s.responses ++ [st]) ∨
  (t.busy = true ∧ t.rsp = s.rsp ∧ t.responses = s.responses ∧
    (t.trace = s.trace ∨ ∃ f left, t.trace = s.trace ++ [.frame f .ok] ∧ t.inflight = some (.settle left)))

theorem State.proceedsTo_finish_ok (s : State) : s.ProceedsTo (s.finish .ok) :=
  .inl ⟨.ok, .inl rfl, rfl, rfl, rfl⟩

theorem State.proceedsTo_issue (s : State) (r : Register) (v : Half) : s.ProceedsTo (s.issue r v) := by
  rcases s.issue_cases r v with ⟨e, h⟩ | ⟨e, h⟩ | ⟨left, e, h⟩ | ⟨e, h⟩ <;> rw [h]
  · exact .inr ⟨rfl, rfl, rfl, .inl rfl⟩
  · exact .inl ⟨.ok, .inl rfl, rfl, rfl, rfl⟩
  · exact .inr ⟨rfl, rfl, rfl, .inr ⟨_, left, rfl, rfl⟩⟩
  · exact .inl ⟨.ioError, .inr (.inl rfl), rfl, rfl, rfl⟩

theorem State.proceedsTo_request_gpioAcquire (s : State) (level : Level) (lvl : Phys) :
    s.ProceedsTo (s.request (.gpioAcquire level lvl)) := by
  rcases s.request_gpioAcquire_cases level lvl with ⟨e, h⟩ | ⟨e, h⟩ | ⟨e, h⟩ <;> rw [h]
  · exact .inr ⟨rfl, rfl, rfl, .inl rfl⟩
  · exact .inl ⟨.ok, .inl rfl, rfl, rfl, rfl⟩
  · exact .inl ⟨.acqError, .inr (.inr rfl), rfl, rfl, rfl⟩

theorem State.proceedsTo_request_gpioSet (s : State) (level : Level) (lvl : Phys) :
    s.ProceedsTo (s.request (.gpioSet level lvl)) := by
  rcases s.request_gpioSet_cases level lvl with ⟨e, h⟩ | ⟨e, h⟩ | ⟨e, h⟩ <;> rw [h]
  · exact .inr ⟨rfl, rfl, rfl, .inl rfl⟩
  · exact .inl ⟨.ok, .inl rfl, rfl, rfl, rfl⟩
  · exact .inl ⟨.ioError, .inr (.inl rfl), rfl, rfl, rfl⟩

theorem State.proceedsTo_release (s : State) : s.ProceedsTo (s.releaseLine.finish .ok) := by
  obtain ⟨l, tr, h⟩ := s.releaseLine_writes
  rw [h]
  exact .inl ⟨.ok, .inl rfl, rfl, rfl, rfl⟩

/-! ### The checks in their order (R238) -/

/-- `i` run in `s` does what the outcome of its checks says: the status of a failing check at once, and else it
goes on. -/
def ObeysCheck (i : Instr) (s : State) : Option Status → Prop
  | some st => exec i s = .next (s.finish st)
  | none    => ∃ t, exec i s = .next t ∧ s.ProceedsTo t

/-- A command obeys a check that comes first when it refuses what the check refuses and obeys the later checks on the
rest. -/
theorem obeysCheck_ite {i : Instr} {s : State} {P : Prop} [Decidable P] {st : Status} {later : Option Status}
    (hrefused : P → exec i s = .next (s.finish st)) (hpassed : ¬ P → ObeysCheck i s later) :
    ObeysCheck i s (if P then some st else later) := by
  split
  case isTrue h => exact hrefused h
  case isFalse h => exact hpassed h

theorem channelOf_eq_none_iff_toNat {ch : BitVec 4} : channelOf ch = none ↔ ¬ (ch.toNat = 1 ∨ ch.toNat = 2) := by
  revert ch
  decide

theorem exists_channelOf {ch : BitVec 4} (h : ch.toNat = 1 ∨ ch.toNat = 2) : ∃ c, channelOf ch = some c :=
  Option.ne_none_iff_exists'.mp fun hnone => channelOf_eq_none_iff_toNat.mp hnone h

/-- A channel field that names no channel, as the rules of the commands write it. -/
theorem ne_one_and_ne_two {ch : BitVec 4} (h : ¬ (ch.toNat = 1 ∨ ch.toNat = 2)) : ch ≠ 1 ∧ ch ≠ 2 :=
  channelOf_eq_none_iff.mp (channelOf_eq_none_iff_toNat.mpr h)

/-- ENCH and DISCH check the reserved DATA, then the channel. -/
theorem exec_mask_commands_obeyCheck (ch : BitVec 4) (data : BitVec 24) (s : State) :
    ObeysCheck (.ench ch data) s (firstFailingCheck s (.ench ch data)) ∧
    ObeysCheck (.disch ch data) s (firstFailingCheck s (.disch ch data)) := by
  simp only [firstFailingCheck]
  by_cases hdata : data = 0
  case neg =>
    rw [if_pos hdata]
    exact exec_mask_commands_of_refused (.inl hdata) s
  subst hdata
  rw [if_neg (not_not.mpr rfl)]
  split
  case isTrue hch =>
    obtain ⟨c, hc⟩ := exists_channelOf hch
    exact ⟨⟨_, exec_ench_of_channel hc s, (s.setMask _).proceedsTo_issue _ _⟩,
      ⟨_, exec_disch_of_channel hc s, (s.setMask _).proceedsTo_issue _ _⟩⟩
  case isFalse hch => exact exec_mask_commands_of_refused (.inr (ne_one_and_ne_two hch)) s

/-- LON and LOFF check the reserved operands, then the lifecycle. -/
theorem exec_lon_loff_obeyCheck (ch : BitVec 4) (data : BitVec 24) (s : State) :
    ObeysCheck (.lon ch data) s (firstFailingCheck s (.lon ch data)) ∧
    ObeysCheck (.loff ch data) s (firstFailingCheck s (.loff ch data)) := by
  simp only [firstFailingCheck]
  split
  case isTrue h => exact exec_lon_loff_of_refused h s
  case isFalse h =>
    obtain ⟨rfl, rfl⟩ : ch = 0 ∧ data = 0 := by simpa using h
    split
    case isTrue hl =>
      obtain ⟨hon, hoff⟩ := exec_lon_loff_of_held hl
      exact ⟨⟨_, hon, s.proceedsTo_request_gpioSet _ _⟩, ⟨_, hoff, s.proceedsTo_request_gpioSet _ _⟩⟩
    case isFalse hl => exact exec_lon_loff_of_not_held (Bool.eq_false_of_not_eq_true hl)

/-- SETANG checks the channel, then the angle. -/
theorem exec_setang_obeysCheck (ch : BitVec 4) (data : BitVec 24) (s : State) :
    ObeysCheck (.setang ch data) s (firstFailingCheck s (.setang ch data)) := by
  rw [firstFailingCheck]
  split
  case isTrue hch =>
    obtain ⟨c, hc⟩ := exists_channelOf hch
    exact obeysCheck_ite (fun hd => exec_setang_of_refused (.inr hd) s)
      fun hd => ⟨_, exec_setang_of_channel hc (Nat.not_lt.mp hd) s, s.proceedsTo_issue _ _⟩
  case isFalse hch => exact exec_setang_of_refused (.inl (ne_one_and_ne_two hch)) s

/-- LINIT checks its operands, then the lifecycle. -/
theorem exec_linit_obeysCheck (ch : BitVec 4) (data : BitVec 24) (s : State) :
    ObeysCheck (.linit ch data) s (firstFailingCheck s (.linit ch data)) := by
  rw [firstFailingCheck, ← ite_or]
  refine obeysCheck_ite (fun h => (exec_linit_lsetpol_of_refused h s).1) fun h => ?_
  obtain ⟨rfl, hd⟩ : ch = 0 ∧ data.toNat ≤ 1 := by simpa using h
  split
  case isTrue hl => exact ⟨_, exec_linit_of_uninit hd hl, s.proceedsTo_request_gpioAcquire _ _⟩
  case isFalse hl => exact exec_linit_of_not_uninit hd hl

/-- Each command makes its checks in the order of R238. -/
theorem exec_obeysCheck (i : Instr) (s : State) (hc : i.isCommand = true) :
    ObeysCheck i s (firstFailingCheck s i) := by
  cases i <;> simp only [Instr.isCommand, reduceCtorEq] at hc
  case setmode ch data =>
    rw [firstFailingCheck, ← ite_or]
    refine obeysCheck_ite (exec_setmode_of_refused · s) fun h => ?_
    obtain ⟨rfl, hd⟩ : ch = 0 ∧ data.toNat ≤ 1 := by simpa using h
    exact ⟨_, exec_setmode_of_le hd s, (s.setLastMode _).proceedsTo_issue _ _⟩
  case ench ch data => exact (exec_mask_commands_obeyCheck ch data s).1
  case disch ch data => exact (exec_mask_commands_obeyCheck ch data s).2
  case setang ch data => exact exec_setang_obeysCheck ch data s
  case setfreq ch data =>
    refine obeysCheck_ite (exec_setfreq_of_refused · data s) fun h => ?_
    obtain rfl := not_not.mp h
    by_cases hd : data = 50 ∨ data = 60
    · exact ⟨_, exec_setfreq_of_mains hd s, s.proceedsTo_issue _ _⟩
    · exact ⟨_, exec_setfreq_of_other hd s, s.proceedsTo_finish_ok⟩
  case reset ch data =>
    rw [firstFailingCheck, ← ite_or]
    refine obeysCheck_ite (exec_reset_of_refused · s) fun h => ?_
    obtain ⟨rfl, hd⟩ : ch = 0 ∧ data.toNat ≤ 0xFFFF := by simpa using h
    exact ⟨_, exec_reset_of_le hd s, s.proceedsTo_issue _ _⟩
  case setbaud ch data =>
    refine obeysCheck_ite (exec_setbaud_of_refused · data s) fun h => ?_
    obtain rfl := not_not.mp h
    cases hcode : baudCode s.cfg data.toNat with
    | none => exact ⟨_, exec_setbaud_of_unlisted hcode, s.proceedsTo_finish_ok⟩
    | some c => exact ⟨_, exec_setbaud_of_listed hcode, s.proceedsTo_issue _ _⟩
  case linit ch data => exact exec_linit_obeysCheck ch data s
  case lon ch data => exact (exec_lon_loff_obeyCheck ch data s).1
  case loff ch data => exact (exec_lon_loff_obeyCheck ch data s).2
  case lsetpol ch data =>
    rw [firstFailingCheck, ← ite_or]
    refine obeysCheck_ite (fun h => (exec_linit_lsetpol_of_refused h s).2) fun h => ?_
    obtain ⟨rfl, hd⟩ : ch = 0 ∧ data.toNat ≤ 1 := by simpa using h
    exact ⟨_, exec_lsetpol_of_le hd s, (s.setDevAl _).proceedsTo_finish_ok⟩
  case lrel ch data => exact ⟨_, exec_lrel ch data s, s.proceedsTo_release⟩

theorem exec_of_failing_check {i : Instr} {s : State} {st : Status} (hc : i.isCommand = true)
    (h : firstFailingCheck s i = some st) : exec i s = .next (s.finish st) := by
  have hobeys := exec_obeysCheck i s hc
  rwa [h] at hobeys

theorem exec_of_no_failing_check {i : Instr} {s : State} (hc : i.isCommand = true)
    (h : firstFailingCheck s i = none) : ∃ t, exec i s = .next t ∧ s.ProceedsTo t := by
  have hobeys := exec_obeysCheck i s hc
  rwa [h] at hobeys

/-- Settles O29: a failing check answers at once, and else the command goes on. -/
theorem firstFailingCheckDecides : Obligations.FirstFailingCheckDecides := by
  unfold Obligations.FirstFailingCheckDecides
  refine fun i s hc => ⟨fun st h => answersAtOnce_of_finish (exec_of_failing_check hc h), fun h => ?_⟩
  obtain ⟨t, ht, ⟨st, hst, hidle, -, hresp⟩ | ⟨hbusy, -, hresp, -⟩⟩ := exec_of_no_failing_check hc h
  · exact ⟨t, ht, .inr ⟨st, hst, hidle, hresp⟩⟩
  · exact ⟨t, ht, .inl ⟨hbusy, hresp⟩⟩

/-! ### INVALID_PARAM by value (R234) -/

theorem ite_some_eq_some_iff {P : Prop} [Decidable P] {st : Status} {later : Option Status} (h : later ≠ some st) :
    (if P then some st else later) = some st ↔ P := by
  simp [h]

/-- A check of the operands fails exactly for the operands a command does not admit: the two write the same conditions,
and the checks of the lifecycle come later and give other statuses. -/
theorem firstFailingCheck_eq_invalidParam_iff (p : Cksum) {i : Instr} (s : State) (hc : i.isCommand = true) :
    firstFailingCheck s i = some .invalidParam ↔ i.wf p = false := by
  cases i <;> simp only [Instr.isCommand, reduceCtorEq] at hc <;>
    simp only [firstFailingCheck, Instr.wf, chNamesChannel, ne_eq, ← BitVec.toNat_inj, ← ite_or]
  case linit | lon | loff =>
    rw [ite_some_eq_some_iff (by split <;> simp)]
    simp [imp_iff_not_or]
  -- The other commands check their operands alone.
  case setmode | ench | disch | setang | setfreq | reset | setbaud | lsetpol | lrel => simp

/-- A command that goes on never answers INVALID_PARAM, so that answer comes from a check. -/
theorem firstFailingCheck_of_answersAtOnce {i : Instr} {s : State} (hc : i.isCommand = true)
    (h : AnswersAtOnce i s .invalidParam) : firstFailingCheck s i = some .invalidParam := by
  cases hck : firstFailingCheck s i with
  | some st =>
    have hstate := Host.Outcome.next.inj ((exec_of_failing_check hc hck).symm.trans h)
    exact congrArg State.rsp hstate
  | none =>
    obtain ⟨t, ht, hd⟩ := exec_of_no_failing_check hc hck
    obtain rfl := Host.Outcome.next.inj (ht.symm.trans h)
    obtain ⟨st, hst, -, hrsp, -⟩ | ⟨hbusy, -⟩ := hd
    · obtain rfl : Status.invalidParam = st := Option.some.inj hrsp
      simp at hst
    · exact nomatch hbusy

/-- Settles O28: both sides say that a check of the operands fails. -/
theorem refusedByValueExactly : Obligations.RefusedByValueExactly := by
  unfold Obligations.RefusedByValueExactly
  intro p i s hc
  rw [← firstFailingCheck_eq_invalidParam_iff p s hc]
  exact ⟨fun h => answersAtOnce_of_finish (exec_of_failing_check hc h), firstFailingCheck_of_answersAtOnce hc⟩

/-! ### One response per command, and the codes (R46, R230) -/

theorem Status.code_ne (st : Status) : st.code ≠ 6 ∧ st.code ≠ 7 := by
  cases st <;> decide

/-- Settles O30: a failing check gives its status; a command that goes on gives one, or none yet. -/
theorem oneResponsePerCommand : Obligations.OneResponsePerCommand := by
  unfold Obligations.OneResponsePerCommand
  refine ⟨fun i s hc => ?_, rfl, rfl, rfl, rfl, rfl, rfl, fun s => ?_⟩
  · cases hck : firstFailingCheck s i with
    | some st => exact ⟨_, exec_of_failing_check hc hck, .inl ⟨rfl, st, rfl, rfl, rfl⟩⟩
    | none =>
      obtain ⟨t, ht, ⟨st, -, hidle, hrsp, hresp⟩ | hflight⟩ := exec_of_no_failing_check hc hck
      · exact ⟨t, ht, .inl ⟨hidle, st, hrsp, congrArg (Option.map Status.code) hrsp, hresp⟩⟩
      · exact ⟨t, ht, .inr hflight⟩
  · cases hrsp : s.rsp with
    | none => simp [State.rspStatus, hrsp]
    | some st => simpa [State.rspStatus, hrsp] using st.code_ne

/-! ### ILLEGAL_CMD (R103, R236) -/

theorem decodeCmd_eq_error {w : CmdWord} :
    decodeCmd w = .error .illegalOpcode ↔ Opcode.ofBits (cmdOp w) = none := by
  unfold decodeCmd
  cases Opcode.ofBits (cmdOp w) <;> simp

theorem Opcode.ofBits_cmdOp_eq_none {w : CmdWord} :
    Opcode.ofBits (cmdOp w) = none ↔ (w.toNat / 2 ^ 28 = 0x0 ∨ 0xD ≤ w.toNat / 2 ^ 28) := by
  rw [Opcode.ofBits_eq_none, cmdOp_toNat]

theorem decode_cmd32_eq_error {w : CmdWord} :
    decode (.cmd32 w) = .error .illegalOpcode ↔ (w.toNat / 2 ^ 28 = 0x0 ∨ 0xD ≤ w.toNat / 2 ^ 28) :=
  decodeCmd_eq_error.trans Opcode.ofBits_cmdOp_eq_none

/-- Settles O31: an illegal opcode is answered as it is accepted. -/
theorem illegalOpcodesAnswerIllegalCmd : Obligations.IllegalOpcodesAnswerIllegalCmd := by
  unfold Obligations.IllegalOpcodesAnswerIllegalCmd
  refine fun w => ⟨decode_cmd32_eq_error, fun h => ?_, fun s rest h hi hb => ?_⟩
  · obtain ⟨o, ho⟩ := Option.ne_none_iff_exists'.mp (mt Opcode.ofBits_cmdOp_eq_none.mp h)
    exact ⟨_, decodeCmd_eq_ok.mpr ⟨o, ho, rfl⟩⟩
  · have hd := acceptCmd_of_not_decode (decode_cmd32_eq_error.mpr h) { s with inbox := rest }
    rw [step_of_fetch_done ((fetch_of_command s w rest hi hb).trans hd), State.raise_eq_finish,
      State.finish_eq_answered]

end Sys2Proof.Machine

namespace Sys2Proof.Machine

open Sys2Proof

/-! ## Reset and hazards (70_reset_and_hazards.md) -/

/-! ### Construction and `RST` (R260, R261, R263) -/

/-- Settles O1: each row of R260 is the value construction writes to its field. -/
theorem constructionLeavesResetValues : Obligations.ConstructionLeavesResetValues := by
  unfold Obligations.ConstructionLeavesResetValues
  exact ⟨fun c => ⟨rfl, rfl, rfl, rfl, rfl, rfl, rfl, rfl, rfl, rfl, rfl, rfl⟩, rfl⟩

/-- Settles O47: a block constructed with no host action and silent agents is one of those that a run starts from. -/
theorem constructionMeetsInvariant : Obligations.ConstructionMeetsInvariant := by
  unfold Obligations.ConstructionMeetsInvariant
  have hconstruct : ∀ c, (State.construct c).Inv := fun c =>
    construct_inv c (State.construct c).inbox (State.construct c).env
  exact ⟨hconstruct, hconstruct Config.construction⟩

theorem State.rst_retired_of_held {s : State} (h : s.line.held = true) :
    s.rst.retired = s.retired ++ [s.trace ++ [.grel]] := by
  rw [State.rst_retired, if_pos h]

theorem State.rst_retired_of_not_held {s : State} (h : s.line.held = false) :
    s.rst.retired = s.retired ++ [s.trace] := by
  rw [State.rst_retired, h, if_neg Bool.false_ne_true]

/-- A poll leaves the host's actions as they are. -/
@[simp] theorem State.poll_inbox (s : State) : s.poll.inbox = s.inbox := by
  obtain ⟨l, p, r, rs, tr, q, e, h⟩ := s.poll_writes
  rw [h]

/-- Settles O2: an `RST` taken is `State.rst`, with the GREL by the line's lifecycle; one that must wait leaves the step to
the agent. -/
theorem rstReleasesThenConstructs : Obligations.RstReleasesThenConstructs := by
  unfold Obligations.RstReleasesThenConstructs
  intro s rest hi
  refine ⟨fun hb => ?_, fun hb => ⟨step_eq_poll_of_waiting s (.inr ⟨hb, .inr ⟨rest, hi⟩⟩), s.poll_inbox⟩⟩
  refine ⟨_, step_of_fetch_done (fetch_of_rst s rest hi hb),
    rfl, rfl, rfl, rfl, rfl, rfl, rfl, rfl, rfl, rfl, rfl, rfl, rfl, rfl, fun hinit => ?_, fun hnot => ?_⟩
  · exact State.rst_retired_of_held (s := { s with inbox := rest }) (Line.held_eq_true_iff.mpr hinit)
  · exact State.rst_retired_of_not_held (s := { s with inbox := rest }) (Line.held_eq_false_iff.mpr hnot)

/-! ### Waiting for the host or for an agent (R262, R281) -/

/-- Settles O35: the step is the poll, which by the request in flight does nothing or only moves the agent. -/
theorem blockWaitsForHostOrAgent : Obligations.BlockWaitsForHostOrAgent := by
  unfold Obligations.BlockWaitsForHostOrAgent
  intro s hi
  rw [step_eq_poll_of_waiting s (.inl hi)]
  refine ⟨fun hb => ?_, fun f e h ha => ?_, fun l p e h ha => ?_, fun l p e h ha => ?_⟩
  · rw [s.poll_of_idle (by simpa using hb), State.cmdReady, hb]
    exact ⟨rfl, rfl⟩
  · rw [s.poll_of_sinkWrite f h, ha, State.writeOutcome]
  · rw [s.poll_of_gpioAcquire l p h, ha, State.acquireOutcome]
  · rw [s.poll_of_gpioSet l p h, ha, State.setOutcome]

/-! ### A command in flight (R45, R281) -/

/-- A write the sink does not answer stays in flight. -/
theorem State.issue_of_no_answer {s : State} {e : Env} (h : s.env.pollSink = (none, e)) (r : Register) (v : Half) :
    s.issue r v = { s with inflight := some (.sinkWrite (encodeFrame s.cfg.cksum r v)), env := e } := by
  rw [State.issue, State.request_sinkWrite, h]
  rfl

/-- A command that issues a frame after its writes, which leave the parameters and the agents alone, waits for the sink's
answer and, after an Ok, for the settle timer. -/
theorem waitsAfterSending_of_issue {i : Instr} {s t : State} {r : Register} {v : Half} {f : Frame}
    (h : exec i s = .next (t.issue r v)) (hcfg : t.cfg = s.cfg) (henv : t.env = s.env)
    (hf : encodeFrame s.cfg.cksum r v = f) : WaitsAfterSending i s t f := by
  subst hf
  rw [WaitsAfterSending, ← hcfg, ← henv]
  refine fun e => ⟨fun hsink => ?_, fun left e' hsink htimer => ?_⟩
  · rw [HoldsRequest, h, State.issue_of_no_answer hsink]
  · rw [HoldsRequest, h, State.issue_of_ok hsink, htimer]
    rfl

/-- A command that writes the mask and issues it shows the new mask while it waits (R183; log 5). -/
theorem waitsAfterSending_of_mask {i : Instr} {s : State} {m : BitVec 8}
    (h : exec i s = .next ((s.setMask m).issue .channelEnable (maskParam m))) :
    WaitsAfterSending i s { s with mask := m } (frameOf s.cfg.cksum 0x02 0x00 m) :=
  waitsAfterSending_of_issue h rfl rfl (encodeFrame_of_byte _ .channelEnable rfl m)

theorem holdsRequest_of_gpioAcquire {i : Instr} {s : State} {level : Level} {lvl : Phys} {e : Env}
    (h : exec i s = .next (s.request (.gpioAcquire level lvl))) (ha : s.env.pollAcquire = (none, e)) :
    HoldsRequest i s s (.gpioAcquire level lvl) e := by
  rw [HoldsRequest, h, State.request_gpioAcquire, ha]
  rfl

theorem holdsRequest_of_gpioSet {i : Instr} {s : State} {level : Level} {lvl : Phys} {e : Env}
    (h : exec i s = .next (s.request (.gpioSet level lvl))) (ha : s.env.pollSet = (none, e)) :
    HoldsRequest i s s (.gpioSet level lvl) e := by
  rw [HoldsRequest, h, State.request_gpioSet, ha]
  rfl

/-- Settles O36: each session command issues its frame, and each line command makes its request; neither is over without
an answer. -/
theorem unansweredCommandStaysInFlight : Obligations.UnansweredCommandStaysInFlight := by
  unfold Obligations.UnansweredCommandStaysInFlight
  intro s
  refine ⟨?setmodePhase, ?setmodeSwitch, ?enchOne, ?enchTwo, ?dischOne, ?dischTwo,
    fun data hd => ⟨?setangOne, ?setangTwo⟩, ?setfreq50, ?setfreq60, fun data hd => ?reset,
    fun data c hcode => ?setbaud, fun e ha hl => ⟨?linitZero, ?linitOne⟩, fun e ha hl => ⟨?lon, ?loff⟩⟩
  case setmodePhase =>
    exact waitsAfterSending_of_issue (exec_setmode_of_le (by decide) s) rfl rfl (encodeFrame_of_byte _ .mode rfl 0x00)
  case setmodeSwitch =>
    exact waitsAfterSending_of_issue (exec_setmode_of_le (by decide) s) rfl rfl (encodeFrame_of_byte _ .mode rfl 0x01)
  case enchOne => exact waitsAfterSending_of_mask (exec_ench_of_channel (c := .one) rfl s)
  case enchTwo => exact waitsAfterSending_of_mask (exec_ench_of_channel (c := .two) rfl s)
  case dischOne => exact waitsAfterSending_of_mask (exec_disch_of_channel (c := .one) rfl s)
  case dischTwo => exact waitsAfterSending_of_mask (exec_disch_of_channel (c := .two) rfl s)
  case setangOne =>
    exact waitsAfterSending_of_issue (exec_setang_of_channel (c := .one) rfl hd s) rfl rfl
      (encodeFrame_of_byteParam _ .angle1 rfl data)
  case setangTwo =>
    exact waitsAfterSending_of_issue (exec_setang_of_channel (c := .two) rfl hd s) rfl rfl
      (encodeFrame_of_byteParam _ .angle2 rfl data)
  case setfreq50 =>
    exact waitsAfterSending_of_issue (exec_setfreq_of_mains (.inl rfl) s) rfl rfl
      (encodeFrame_of_byteParam _ .frequency rfl 50)
  case setfreq60 =>
    exact waitsAfterSending_of_issue (exec_setfreq_of_mains (.inr rfl) s) rfl rfl
      (encodeFrame_of_byteParam _ .frequency rfl 60)
  case reset =>
    rw [← halfParam_toNat hd]
    exact waitsAfterSending_of_issue (exec_reset_of_le hd s) rfl rfl (encodeFrame_of_wide _ rfl _)
  case setbaud => exact waitsAfterSending_of_issue (exec_setbaud_of_listed hcode) rfl rfl (encodeFrame_of_wide _ rfl c)
  case linitZero =>
    rw [← initialPhys_zero]
    exact holdsRequest_of_gpioAcquire (exec_linit_of_uninit (by decide) hl) ha
  case linitOne =>
    rw [← initialPhys_one]
    exact holdsRequest_of_gpioAcquire (exec_linit_of_uninit (by decide) hl) ha
  case lon => exact holdsRequest_of_gpioSet (exec_lon_loff_of_held hl).1 ha
  case loff => exact holdsRequest_of_gpioSet (exec_lon_loff_of_held hl).2 ha

end Sys2Proof.Machine
